-- ==== Sys2Proof/Word.lean ====
section
/-! DEFINITION. The three bit-vector widths of the core (spec/00_scope.md R7): bytes, 16-bit words and
20-bit linear addresses. -/

namespace Sys2Proof

/-- An 8-bit byte of memory, of an immediate or of a register half. -/
abbrev Byte := BitVec 8

/-- A 16-bit word: a general register, a segment register, IP, FLAGS (R7, R20). -/
abbrev Word := BitVec 16

/-- A 20-bit linear address; arithmetic on it is modulo 2^20 (R51). -/
abbrev Addr := BitVec 20

end Sys2Proof
end

