-- ==== Sys2Proof/Syntax.lean ====
section
/-! DEFINITION. The instructions of the core: one constructor per row of spec/opcode_table.json. -/

namespace Sys2Proof

/-- The eight 16-bit general registers, in the order of their numbers 0 to 7 (R21). -/
inductive Reg16 where
  | ax | cx | dx | bx | sp | bp | si | di
  deriving DecidableEq, Repr

/-- The eight 8-bit halves, in the order of their numbers 0 to 7 (R22). -/
inductive Reg8 where
  | al | cl | dl | bl | ah | ch | dh | bh
  deriving DecidableEq, Repr

/-- The four segment registers (R26). -/
inductive SegReg where
  | es | cs | ss | ds
  deriving DecidableEq, Repr

/-- The seven prefixes (R94). -/
inductive Prefix where
  | segment (r : SegReg)
  | lock
  | repne
  | rep
  deriving DecidableEq, Repr

/-- One constructor per row of spec/opcode_table.json. The last seven are the prefix rows: a prefix is
not an instruction of its own (R112); its meaning records it, and `step` goes on to the next byte. -/
inductive Instr where
  | addAl (imm : Byte)
  | addAx (imm : Word)
  | orAl (imm : Byte)
  | orAx (imm : Word)
  | andAl (imm : Byte)
  | andAx (imm : Word)
  | subAl (imm : Byte)
  | subAx (imm : Word)
  | xorAl (imm : Byte)
  | xorAx (imm : Word)
  | cmpAl (imm : Byte)
  | cmpAx (imm : Word)
  | incR16 (r : Reg16)
  | decR16 (r : Reg16)
  | pushR16 (r : Reg16)
  | popR16 (r : Reg16)
  | jo (rel : Byte)
  | jno (rel : Byte)
  | jb (rel : Byte)
  | jae (rel : Byte)
  | je (rel : Byte)
  | jne (rel : Byte)
  | jbe (rel : Byte)
  | ja (rel : Byte)
  | js (rel : Byte)
  | jns (rel : Byte)
  | jp (rel : Byte)
  | jnp (rel : Byte)
  | jl (rel : Byte)
  | jge (rel : Byte)
  | jle (rel : Byte)
  | jg (rel : Byte)
  | nop
  | xchgAx (r : Reg16)
  | pushf
  | popf
  | movAlMoffs (off : Word)
  | movAxMoffs (off : Word)
  | movMoffsAl (off : Word)
  | movMoffsAx (off : Word)
  | movR8Imm (r : Reg8) (imm : Byte)
  | movR16Imm (r : Reg16) (imm : Word)
  | ret
  | int (vector : Byte)
  | iret
  | loop (rel : Byte)
  | call (rel : Word)
  | jmp (rel : Byte)
  | hlt
  | clc
  | stc
  | cli
  | sti
  | cld
  | std
  | adcAl (imm : Byte)
  | adcAx (imm : Word)
  | sbbAl (imm : Byte)
  | sbbAx (imm : Word)
  | testAl (imm : Byte)
  | testAx (imm : Word)
  | segEs
  | segCs
  | segSs
  | segDs
  | lock
  | repne
  | rep
  deriving DecidableEq, Repr

end Sys2Proof
end

