-- ==== Sys2Proof/WellFormed.lean ====
section
/-! DEFINITION. Which instruction terms stand for an encoding of their own. Register numbers and
immediates are typed, so one check is left: XCHG AX, AX is the NOP row's word (R93, R156). -/

namespace Sys2Proof

/-- Every term is the reading of some word, but `xchgAx .ax`: the word 0x90 is the row NOP (log entry 29). -/
def Instr.wellFormed : Instr → Bool
  | .xchgAx r => r ≠ .ax
  | _ => true

/-- The well-formed instructions. -/
abbrev Instr.WellFormed (i : Instr) : Prop := i.wellFormed = true

end Sys2Proof
end

