-- ==== Sys2Proof/Decode.lean ====
section
/-! DEFINITION. Reading an instruction from its bytes and writing it back, from the opcode map (R88), the
formats (R82) and the prefix bytes (R94) of spec/30_encoding.md. -/

namespace Sys2Proof

/-- The 16-bit register numbered `n` (R21). -/
def Reg16.ofCode (n : Nat) : Reg16 :=
  match n with
  | 0 => .ax
  | 1 => .cx
  | 2 => .dx
  | 3 => .bx
  | 4 => .sp
  | 5 => .bp
  | 6 => .si
  | _ => .di

/-- The number of a 16-bit register (R21). -/
def Reg16.code : Reg16 → Nat
  | .ax => 0
  | .cx => 1
  | .dx => 2
  | .bx => 3
  | .sp => 4
  | .bp => 5
  | .si => 6
  | .di => 7

/-- The 8-bit register numbered `n` (R22). -/
def Reg8.ofCode (n : Nat) : Reg8 :=
  match n with
  | 0 => .al
  | 1 => .cl
  | 2 => .dl
  | 3 => .bl
  | 4 => .ah
  | 5 => .ch
  | 6 => .dh
  | _ => .bh

/-- The number of an 8-bit register (R22). -/
def Reg8.code : Reg8 → Nat
  | .al => 0
  | .cl => 1
  | .dl => 2
  | .bl => 3
  | .ah => 4
  | .ch => 5
  | .dh => 6
  | .bh => 7

/-- Low byte of a word (R9: bits 7 to 0). -/
def lowByte (w : Word) : Byte := w.setWidth 8

/-- High byte of a word (bits 15 to 8). -/
def highByte (w : Word) : Byte := (w >>> 8).setWidth 8

/-- `hi ++ lo` of R9, which is `hi*256 + lo`: the little-endian word whose low byte comes first (R55, R86, R114). -/
def joinBytes (hi lo : Byte) : Word := (hi.setWidth 16 <<< 8) ||| lo.setWidth 16

/-- The rows with a register field in bits 2 to 0 (R83), by the opcode's upper five bits. -/
def decodeRegRow (row reg : Nat) (b1 b2 : Byte) : Option Instr :=
  match row with
  | 0x08 => some (.incR16 (.ofCode reg))
  | 0x09 => some (.decR16 (.ofCode reg))
  | 0x0A => some (.pushR16 (.ofCode reg))
  | 0x0B => some (.popR16 (.ofCode reg))
  | 0x12 => some (.xchgAx (.ofCode reg))
  | 0x16 => some (.movR8Imm (.ofCode reg) b1)
  | 0x17 => some (.movR16Imm (.ofCode reg) (joinBytes b2 b1))
  | _ => none

/-- The instruction whose first byte is `b0`, its operand bytes taken from `b1` and `b2` as far as its
format has them (R82, R88). `none` for the bytes marked `-` in R88. -/
def decodeBytes (b0 b1 b2 : Byte) : Option Instr :=
  match b0.toNat with
  | 0x04 => some (.addAl b1)
  | 0x05 => some (.addAx (joinBytes b2 b1))
  | 0x0C => some (.orAl b1)
  | 0x0D => some (.orAx (joinBytes b2 b1))
  | 0x14 => some (.adcAl b1)
  | 0x15 => some (.adcAx (joinBytes b2 b1))
  | 0x1C => some (.sbbAl b1)
  | 0x1D => some (.sbbAx (joinBytes b2 b1))
  | 0x24 => some (.andAl b1)
  | 0x25 => some (.andAx (joinBytes b2 b1))
  | 0x26 => some .segEs
  | 0x2C => some (.subAl b1)
  | 0x2D => some (.subAx (joinBytes b2 b1))
  | 0x2E => some .segCs
  | 0x34 => some (.xorAl b1)
  | 0x35 => some (.xorAx (joinBytes b2 b1))
  | 0x36 => some .segSs
  | 0x3C => some (.cmpAl b1)
  | 0x3D => some (.cmpAx (joinBytes b2 b1))
  | 0x3E => some .segDs
  | 0x70 => some (.jo b1)
  | 0x71 => some (.jno b1)
  | 0x72 => some (.jb b1)
  | 0x73 => some (.jae b1)
  | 0x74 => some (.je b1)
  | 0x75 => some (.jne b1)
  | 0x76 => some (.jbe b1)
  | 0x77 => some (.ja b1)
  | 0x78 => some (.js b1)
  | 0x79 => some (.jns b1)
  | 0x7A => some (.jp b1)
  | 0x7B => some (.jnp b1)
  | 0x7C => some (.jl b1)
  | 0x7D => some (.jge b1)
  | 0x7E => some (.jle b1)
  | 0x7F => some (.jg b1)
  | 0x90 => some .nop
  | 0x9C => some .pushf
  | 0x9D => some .popf
  | 0xA0 => some (.movAlMoffs (joinBytes b2 b1))
  | 0xA1 => some (.movAxMoffs (joinBytes b2 b1))
  | 0xA2 => some (.movMoffsAl (joinBytes b2 b1))
  | 0xA3 => some (.movMoffsAx (joinBytes b2 b1))
  | 0xA8 => some (.testAl b1)
  | 0xA9 => some (.testAx (joinBytes b2 b1))
  | 0xC3 => some .ret
  | 0xCD => some (.int b1)
  | 0xCF => some .iret
  | 0xE2 => some (.loop b1)
  | 0xE8 => some (.call (joinBytes b2 b1))
  | 0xEB => some (.jmp b1)
  | 0xF0 => some .lock
  | 0xF2 => some .repne
  | 0xF3 => some .rep
  | 0xF4 => some .hlt
  | 0xF8 => some .clc
  | 0xF9 => some .stc
  | 0xFA => some .cli
  | 0xFB => some .sti
  | 0xFC => some .cld
  | 0xFD => some .std
  | n => decodeRegRow (n / 8) (n % 8) b1 b2

/-- How many bytes an instruction has, its prefixes not counted (R95); a prefix byte counts as one. -/
def Instr.length : Instr → Nat
  | .addAl _ | .orAl _ | .andAl _ | .subAl _ | .xorAl _ | .cmpAl _ | .adcAl _ | .sbbAl _ | .testAl _ => 2
  | .addAx _ | .orAx _ | .andAx _ | .subAx _ | .xorAx _ | .cmpAx _ | .adcAx _ | .sbbAx _ | .testAx _ => 3
  | .jo _ | .jno _ | .jb _ | .jae _ | .je _ | .jne _ | .jbe _ | .ja _ => 2
  | .js _ | .jns _ | .jp _ | .jnp _ | .jl _ | .jge _ | .jle _ | .jg _ => 2
  | .movAlMoffs _ | .movAxMoffs _ | .movMoffsAl _ | .movMoffsAx _ | .movR16Imm _ _ | .call _ => 3
  | .movR8Imm _ _ | .int _ | .loop _ | .jmp _ => 2
  | .incR16 _ | .decR16 _ | .pushR16 _ | .popR16 _ | .xchgAx _ => 1
  | .nop | .pushf | .popf | .ret | .iret | .hlt => 1
  | .clc | .stc | .cli | .sti | .cld | .std => 1
  | .segEs | .segCs | .segSs | .segDs | .lock | .repne | .rep => 1

/-- The prefix that a prefix row stands for (R94); `none` for a row that ends the prefix loop. -/
def Instr.toPrefix : Instr → Option Prefix
  | .segEs => some (.segment .es)
  | .segCs => some (.segment .cs)
  | .segSs => some (.segment .ss)
  | .segDs => some (.segment .ds)
  | .lock => some .lock
  | .repne => some .repne
  | .rep => some .rep
  | _ => none

/-- Why a list of bytes is no instruction. -/
inductive DecodeError where
  /-- There is no byte at all. -/
  | empty
  /-- The first byte is marked `-` in R88: the step ends with InvalidOpcode (R92). -/
  | invalidOpcode (op : Byte)
  /-- The opcode is in R88, and its operand bytes (R95) are not all there. -/
  | truncated (op : Byte)
  deriving DecidableEq, Repr

/-- Reads one instruction (or one prefix) from the front of a list of bytes and returns the rest. -/
def decode (bytes : List Byte) : Except DecodeError (Instr × List Byte) :=
  match bytes with
  | [] => .error .empty
  | b0 :: rest =>
    match decodeBytes b0 (rest.getD 0 0) (rest.getD 1 0) with
    | none => .error (.invalidOpcode b0)
    | some i => if i.length ≤ rest.length + 1 then .ok (i, rest.drop (i.length - 1)) else .error (.truncated b0)

/-- The bytes of format `op_iw`, `op_rel16` or `op_moffs`: the word's low byte first (R82, R86). -/
def withWord (op : Byte) (w : Word) : List Byte := [op, lowByte w, highByte w]

/-- The opcode of a row with a register field: `base + reg` (R83). -/
def withReg (base reg : Nat) : Byte := BitVec.ofNat 8 (base + reg)

/-- The bytes of an instruction, from the opcode map (R88) and the formats (R82). -/
def encode : Instr → List Byte
  | .addAl b => [0x04, b]
  | .addAx w => withWord 0x05 w
  | .orAl b => [0x0C, b]
  | .orAx w => withWord 0x0D w
  | .andAl b => [0x24, b]
  | .andAx w => withWord 0x25 w
  | .subAl b => [0x2C, b]
  | .subAx w => withWord 0x2D w
  | .xorAl b => [0x34, b]
  | .xorAx w => withWord 0x35 w
  | .cmpAl b => [0x3C, b]
  | .cmpAx w => withWord 0x3D w
  | .incR16 r => [withReg 0x40 r.code]
  | .decR16 r => [withReg 0x48 r.code]
  | .pushR16 r => [withReg 0x50 r.code]
  | .popR16 r => [withReg 0x58 r.code]
  | .jo d => [0x70, d]
  | .jno d => [0x71, d]
  | .jb d => [0x72, d]
  | .jae d => [0x73, d]
  | .je d => [0x74, d]
  | .jne d => [0x75, d]
  | .jbe d => [0x76, d]
  | .ja d => [0x77, d]
  | .js d => [0x78, d]
  | .jns d => [0x79, d]
  | .jp d => [0x7A, d]
  | .jnp d => [0x7B, d]
  | .jl d => [0x7C, d]
  | .jge d => [0x7D, d]
  | .jle d => [0x7E, d]
  | .jg d => [0x7F, d]
  | .nop => [0x90]
  | .xchgAx r => [withReg 0x90 r.code]
  | .pushf => [0x9C]
  | .popf => [0x9D]
  | .movAlMoffs w => withWord 0xA0 w
  | .movAxMoffs w => withWord 0xA1 w
  | .movMoffsAl w => withWord 0xA2 w
  | .movMoffsAx w => withWord 0xA3 w
  | .movR8Imm r b => [withReg 0xB0 r.code, b]
  | .movR16Imm r w => withWord (withReg 0xB8 r.code) w
  | .ret => [0xC3]
  | .int n => [0xCD, n]
  | .iret => [0xCF]
  | .loop d => [0xE2, d]
  | .call w => withWord 0xE8 w
  | .jmp d => [0xEB, d]
  | .hlt => [0xF4]
  | .clc => [0xF8]
  | .stc => [0xF9]
  | .cli => [0xFA]
  | .sti => [0xFB]
  | .cld => [0xFC]
  | .std => [0xFD]
  | .adcAl b => [0x14, b]
  | .adcAx w => withWord 0x15 w
  | .sbbAl b => [0x1C, b]
  | .sbbAx w => withWord 0x1D w
  | .testAl b => [0xA8, b]
  | .testAx w => withWord 0xA9 w
  | .segEs => [0x26]
  | .segCs => [0x2E]
  | .segSs => [0x36]
  | .segDs => [0x3E]
  | .lock => [0xF0]
  | .repne => [0xF2]
  | .rep => [0xF3]

/-- The bytes of an instruction whose bits are `w`, byte 0 the least significant, every bit at or above
`nbits` zero, as many bytes as the longest instruction has. -/
def tableBytes (nbits w : Nat) : List Byte :=
  [BitVec.ofNat 8 (w % 2 ^ nbits), BitVec.ofNat 8 (w % 2 ^ nbits / 2 ^ 8), BitVec.ofNat 8 (w % 2 ^ nbits / 2 ^ 16)]

/-- What the decoder reads from the bytes of an opcode-table word. -/
def decodeTableWord (nbits w : Nat) : Option Instr :=
  match decode (tableBytes nbits w) with
  | .ok (i, _) => some i
  | .error _ => none

end Sys2Proof
end

