-- ==== Sys2Proof/Config.lean ====
section
/-! DEFINITION. The launch parameters (spec/00_scope.md R8) as plain data, and the free values of the
model: opaque constants without a body, about which nothing can be proved. -/

namespace Sys2Proof

/-- `RO_WORD_POLICY`: how a 16-bit write that touches a read-only page is filtered (R56, D4). -/
inductive RoWordPolicy where
  | perByte
  | firstByte
  deriving DecidableEq, Repr

/-- `LOADER_RO_POLICY`: whether the loader's bulk copy honours the read-only mask (R384, D7). -/
inductive LoaderRoPolicy where
  | honour
  | bypass
  deriving DecidableEq, Repr

/-- `PUSH_SP_VALUE`: the value PUSH SP stores (R172, D23). -/
inductive PushSpValue where
  | old
  | new
  deriving DecidableEq, Repr

/-- `DOS_INPUT_EMPTY`: the echo of DOS character input with an empty keyboard ring (R330, D52). -/
inductive DosInputEmpty where
  | echoNul
  | noEcho
  deriving DecidableEq, Repr

/-- `DISK_GEOMETRY`: what the disk-parameters service returns (R324, D50). -/
structure DiskGeometry where
  ch : Byte
  cl : Byte
  dh : Byte
  dl : Byte
  deriving DecidableEq, Repr

/-- The launch parameters that a step reads, fixed for a run (R8). They stand in the state as plain data
that no step writes, so a statement about every state is one about every value of them (log entry 6). -/
structure Params where
  /-- `RO_PAGES`: bit `p` says page `p` is read-only (R64). -/
  roPages : BitVec 256
  roWordPolicy : RoWordPolicy
  loaderRoPolicy : LoaderRoPolicy
  /-- `EXT_ACC_ALU` contains ADC (R91). -/
  extAdc : Bool
  /-- `EXT_ACC_ALU` contains SBB (R91). -/
  extSbb : Bool
  /-- `EXT_ACC_ALU` contains TEST (R91). -/
  extTest : Bool
  /-- `MODRM_OPCODES` (R140). -/
  modrmOpcodes : List Byte
  pushSpValue : PushSpValue
  /-- `IVT_NULL_IGNORED` (R284). -/
  ivtNullIgnored : Bool
  /-- `KBD_CAP` (R325). -/
  kbdCap : Nat
  /-- `TEXT_BASE` (R303). -/
  textBase : Addr
  geometry : DiskGeometry
  dosInputEmpty : DosInputEmpty
  deriving DecidableEq, Repr

/-- The `n`-th draw of one bit (AF after a logical operation, R193, D17). Free: log entry 7. -/
opaque Config.freeBit : Nat → Bool

/-- The `n`-th draw of one byte (AL or AH after a service, R322, R323, R330 to R332). Free: log entry 7. -/
opaque Config.freeByte : Nat → Byte

/-- The `n`-th draw of the cycle counter (R122, D34). Free: log entry 8. -/
opaque Config.freeCycles : Nat → Nat

/-- What `FLAGS_LOAD` makes of a loaded word; only its reserved bits 1, 3, 5 and 12 to 15 are used
(R175, D15). Free: log entry 10. -/
opaque Config.flagsLoadReserved : Word → Word

end Sys2Proof
end

