-- ==== Sys2Proof/Machine/Launch.lean ====
section
/-! DEFINITION. The values this model gives the launch parameters that the spec leaves open: those that act
only at reset (R42 to R44, R71, R301), and the parameter record that State.reset starts with (R8). -/

namespace Sys2Proof.Machine

/-- `MEM_INIT`: what a byte that nothing has written reads as (R71, D6). DESIGN CHOICE, unsafe: log entry 1. -/
def memInit : Byte := 0x00

/-- `RESET_REGS`: AX, CX, DX, BX, BP, SI, DI, DS, ES and SS at reset (R43, D9). DESIGN CHOICE, unsafe: log entry 2. -/
def resetReg : Word := 0x0000

/-- `RESET_SP`: "near top of its segment" (R42, D10). DESIGN CHOICE, unsafe: log entry 3. -/
def resetSp : Word := 0xFFFE

/-- `RESET_FLAGS`: bit 9 (IF) is 0 by R44; the other bits are DESIGN CHOICE, unsafe (D11): log entry 4. -/
def resetFlags : Word := 0x0002

/-- `DEFAULT_ATTR`, at the spec's default (D46): log entry 5. -/
def defaultAttr : Byte := 0x07

/-- The open fields of `BIOS_RESET` (R301, D13). DESIGN CHOICE, unsafe: log entry 5. -/
def biosResetByte : Byte := 0x00

/-- The parameter record of State.reset: the spec's default where it gives one (D5, D18, D22, D23, D39, D47,
D52), else DESIGN CHOICE (D4, D7, D43, D50): log entry 6. -/
def launchParams : Params where
  roPages := 0
  roWordPolicy := .perByte
  loaderRoPolicy := .honour
  extAdc := false
  extSbb := false
  extTest := false
  modrmOpcodes := []
  pushSpValue := .old
  ivtNullIgnored := true
  kbdCap := 16
  textBase := 0xB8000
  geometry := { ch := 0, cl := 0, dh := 0, dl := 0 }
  dosInputEmpty := .echoNul

end Sys2Proof.Machine
end

