-- ==== Sys2Proof/Machine/State.lean ====
section
/-! DEFINITION. The machine state as plain data (spec/10_state.md R20, R36, R37), the reasons a step can stop,
and the state right after reset (R40 to R48). -/

namespace Sys2Proof.Machine

/-- Memory as (address, byte) pairs in the canonical form `Memory.wf` of Machine/Memory.lean (R37, R50). -/
abbrev Memory := List Host.Cell

/-- One entry of the keyboard ring (R325). -/
structure Key where
  ascii : Byte
  scan : Byte
  deriving DecidableEq, Repr

/-- The keyboard ring of R36: the pairs it holds, oldest first, and the slots its head and tail indices name,
the slot of the oldest pair and the slot the next pair goes into (log entry 21). -/
structure Ring where
  keys : List Key
  head : Nat
  tail : Nat
  deriving DecidableEq, Repr

/-- The BIOS context (R36). -/
structure Bios where
  videoMode : Byte
  curCol : Byte
  curRow : Byte
  curStart : Byte
  curEnd : Byte
  page : Byte
  attr : Byte
  /-- The keyboard ring (R325). -/
  kbd : Ring
  shift : Byte
  deriving DecidableEq, Repr

/-- The machine: the CPU record of R20, memory and its read-only mask (R37; the mask is in `params`), the
BIOS context (R36), the launch parameters (R8), and two fields of the model's own (`drawCount`, `hung`). -/
structure State where
  ax : Word
  cx : Word
  dx : Word
  bx : Word
  sp : Word
  bp : Word
  si : Word
  di : Word
  ip : Word
  cs : Word
  ds : Word
  es : Word
  ss : Word
  flags : Word
  halted : Bool
  pend : Bool
  pendVec : Byte
  segOvr : Option SegReg
  rep : Bool
  repne : Bool
  cycles : Nat
  mem : Memory
  bios : Bios
  params : Params
  /-- The MODEL's own: how many draws have been taken (log entry 9). -/
  drawCount : Nat
  /-- The MODEL's own: the step in progress never returns, the outcome `Hang` of R110 (log entry 11). -/
  hung : Bool
  deriving DecidableEq, Repr

/-- The nine flags of FLAGS with a meaning (R27). -/
inductive Flag where
  | carry
  | parity
  | aux
  | zero
  | sign
  | trap
  | interrupt
  | direction
  | overflow
  deriving DecidableEq, Repr

/-- Why a step stops for good. -/
inductive Fault where
  /-- Raised by a step whose opcode is not admitted or not enabled (R117, R118). Safe: the spec's own fault. -/
  | invalidOpcode (op : Byte) (addr : Addr)
  /-- Raised by a step of a state with `halted` set: R111 gives it no transition. Safe: the run has ended
  normally before it (log entry 12). -/
  | haltedNoTransition
  deriving DecidableEq, Repr

/-- Why the model gives a step no meaning. -/
inductive Refusal where
  /-- Raised by an arm of exec whose instruction has no meaning yet. Safe. -/
  | notModelled (mnemonic : String)
  /-- Raised by a video or teletype service whose cursor lies outside rows 0..24 or columns 0..79: R303
  leaves its effect unspecified (U25: refuse). Safe: log entry 18. -/
  | cursorOutOfRange (row col : Byte)
  /-- Raised by a scroll service whose window is not empty and lies outside rows 0..24 or columns 0..79
  (R303, U25: refuse). Safe: log entry 18. -/
  | windowOutOfRange (bottom right : Byte)
  /-- Raised by INT 10h functions 09 and 0A with CX other than 1 (R312, R313, D49, U26: refuse). Safe: log entry 17. -/
  | repeatCountNotOne (count : Word)
  /-- Raised where an opcode that is not admitted stands in `MODRM_OPCODES`: R140 gives it no rule. Safe: log entry 16. -/
  | modrmOpcodeWithoutRule (op : Byte) (addr : Addr)
  deriving DecidableEq, Repr

/-- The empty keyboard ring of reset (R301); that both indices then name slot 0 is the model's (log entry 21). -/
def Ring.empty : Ring where
  keys := []
  head := 0
  tail := 0

/-- The BIOS context at reset, `BIOS_RESET` (R301): ring empty, `attr = DEFAULT_ATTR`, the rest open (log entry 5). -/
def Bios.reset : Bios where
  videoMode := biosResetByte
  curCol := biosResetByte
  curRow := biosResetByte
  curStart := biosResetByte
  curEnd := biosResetByte
  page := biosResetByte
  attr := defaultAttr
  kbd := Ring.empty
  shift := biosResetByte

/-- The machine right after reset (R40 to R48, R381). -/
def State.reset : State where
  ax := resetReg
  cx := resetReg
  dx := resetReg
  bx := resetReg
  sp := resetSp
  bp := resetReg
  si := resetReg
  di := resetReg
  ip := 0x7C00
  cs := 0x0000
  ds := resetReg
  es := resetReg
  ss := resetReg
  flags := resetFlags
  halted := false
  pend := false
  pendVec := 0
  segOvr := none
  rep := false
  repne := false
  cycles := 0
  mem := []
  bios := Bios.reset
  params := launchParams
  drawCount := 0
  hung := false

end Sys2Proof.Machine
end

