-- ==== Sys2Proof/Machine/Memory.lean ====
section
/-! DEFINITION. The memory as a list of cells in canonical form: reading and writing one byte, the read-only
mask, and 16-bit and 32-bit accesses built from bytes (spec/20_memory.md). -/

namespace Sys2Proof.Machine

/-- What an address that the list does not hold reads as (R71; log entry 1). -/
def Memory.unlisted : Byte := memInit

/-- The byte at an address (R53). -/
def Memory.get (m : Memory) (a : Nat) : Byte :=
  match m with
  | [] => Memory.unlisted
  | (b, v) :: t => if b = a then v else Memory.get t a

/-- The list without any entry for an address. -/
def Memory.erase (m : Memory) (a : Nat) : Memory :=
  match m with
  | [] => []
  | (b, v) :: t => if b = a then Memory.erase t a else (b, v) :: Memory.erase t a

/-- The list with an entry put before the first higher address. -/
def Memory.insert (m : Memory) (a : Nat) (v : Byte) : Memory :=
  match m with
  | [] => [(a, v)]
  | (b, w) :: t => if a < b then (a, v) :: (b, w) :: t else (b, w) :: Memory.insert t a v

/-- Memory with one byte replaced; the value an unlisted address reads as leaves no entry. -/
def Memory.set (m : Memory) (a : Nat) (v : Byte) : Memory :=
  if v = Memory.unlisted then Memory.erase m a else Memory.insert (Memory.erase m a) a v

/-- Canonical from address `lo` on: addresses strictly rising and below 2^20, no entry that reads as unlisted. -/
def Memory.wfFrom (lo : Nat) (m : Memory) : Bool :=
  match m with
  | [] => true
  | (a, v) :: t => decide (lo ≤ a) && decide (a < 2 ^ 20) && decide (v ≠ Memory.unlisted) && Memory.wfFrom (a + 1) t

/-- The canonical form of memory. -/
def Memory.wf (m : Memory) : Bool := Memory.wfFrom 0 m

/-- `RO_PAGES[p] = 1` for the page of a linear address (R54, R64). -/
def pageReadOnly (p : Params) (a : Addr) : Bool := p.roPages.getLsbD (a.toNat / 4096)

/-- `MemWrite(a, 1, v)` (R54): dropped silently in a read-only page. -/
def Memory.write8 (p : Params) (m : Memory) (a : Addr) (v : Byte) : Memory :=
  if pageReadOnly p a then m else Memory.set m a.toNat v

/-- `MemWrite(a, 2, v)` (R56): the low byte at `a`, the high byte at `a + 1`, filtered by `RO_WORD_POLICY`. -/
def Memory.write16 (p : Params) (m : Memory) (a : Addr) (v : Word) : Memory :=
  match p.roWordPolicy with
  | .perByte => Memory.write8 p (Memory.write8 p m a (lowByte v)) (a + 1) (highByte v)
  | .firstByte =>
    if pageReadOnly p a then m
    else Memory.set (Memory.set m a.toNat (lowByte v)) (a + 1).toNat (highByte v)

/-- `MemRead(a, 1)` (R53). -/
def Memory.read8 (m : Memory) (a : Addr) : Byte := Memory.get m a.toNat

/-- `MemRead(a, 2)` (R55): each byte address is reduced by itself. -/
def Memory.read16 (m : Memory) (a : Addr) : Word := joinBytes (Memory.read8 m (a + 1)) (Memory.read8 m a)

/-- The 32-bit read accessor (R58), from two words. -/
def Memory.read32 (m : Memory) (a : Addr) : BitVec 32 :=
  ((Memory.read16 m (a + 2)).setWidth 32 <<< 16) ||| (Memory.read16 m a).setWidth 32

/-- The 32-bit write accessor (R58), from two words, each under `RO_WORD_POLICY` (log entry 22). -/
def Memory.write32 (p : Params) (m : Memory) (a : Addr) (v : BitVec 32) : Memory :=
  Memory.write16 p (Memory.write16 p m a (v.setWidth 16)) (a + 2) ((v >>> 16).setWidth 16)

/-- A list of byte writes, done in order. -/
def Memory.writeAll (p : Params) (m : Memory) (ws : List (Addr × Byte)) : Memory :=
  match ws with
  | [] => m
  | (a, v) :: t => Memory.writeAll p (Memory.write8 p m a v) t

end Sys2Proof.Machine
end

