-- ==== Sys2Proof/Machine/Ops.lean ====
section
/-! DEFINITION. The named operations every meaning is written from: registers and their halves, flag bits,
linear addresses, memory, the stack, fetching, prefixes, draws, taking an interrupt and returning from it. -/

namespace Sys2Proof.Machine

/-- What a meaning answers. -/
abbrev Answer := Host.Outcome State Fault Refusal

/-! ## Registers (R20 to R26) -/

/-- `GPR16[r]` (R10, R21). -/
def State.reg16 (s : State) : Reg16 → Word
  | .ax => s.ax
  | .cx => s.cx
  | .dx => s.dx
  | .bx => s.bx
  | .sp => s.sp
  | .bp => s.bp
  | .si => s.si
  | .di => s.di

/-- `GPR16[r] <- v` (R10, R21). No register is hardwired (R24). -/
def State.setReg16 (s : State) (r : Reg16) (v : Word) : State :=
  match r with
  | .ax => { s with ax := v }
  | .cx => { s with cx := v }
  | .dx => { s with dx := v }
  | .bx => { s with bx := v }
  | .sp => { s with sp := v }
  | .bp => { s with bp := v }
  | .si => { s with si := v }
  | .di => { s with di := v }

/-- The word whose half an 8-bit register is (R22). -/
def halfWord : Reg8 → Reg16
  | .al | .ah => .ax
  | .cl | .ch => .cx
  | .dl | .dh => .dx
  | .bl | .bh => .bx

/-- Whether an 8-bit register is the high half of its word (R22). -/
def halfIsHigh : Reg8 → Bool
  | .al | .cl | .dl | .bl => false
  | .ah | .ch | .dh | .bh => true

/-- A word with its low half replaced (R23). -/
def withLow (w : Word) (v : Byte) : Word := (w &&& 0xFF00) ||| v.setWidth 16

/-- A word with its high half replaced (R23). -/
def withHigh (w : Word) (v : Byte) : Word := (w &&& 0x00FF) ||| (v.setWidth 16 <<< 8)

/-- `GPR8[r]` (R22, R23). -/
def State.reg8 (s : State) (r : Reg8) : Byte :=
  if halfIsHigh r then highByte (s.reg16 (halfWord r)) else lowByte (s.reg16 (halfWord r))

/-- `GPR8[r] <- v`: the other half stays (R23). -/
def State.setReg8 (s : State) (r : Reg8) (v : Byte) : State :=
  s.setReg16 (halfWord r) (if halfIsHigh r then withHigh (s.reg16 (halfWord r)) v else withLow (s.reg16 (halfWord r)) v)

/-- The segment register of a name (R26). -/
def State.seg (s : State) : SegReg → Word
  | .es => s.es
  | .cs => s.cs
  | .ss => s.ss
  | .ds => s.ds

/-! ## Flag bits (R27) -/

/-- The position of a flag in FLAGS (R27, D14). -/
def Flag.bit : Flag → Nat
  | .carry => 0
  | .parity => 2
  | .aux => 4
  | .zero => 6
  | .sign => 7
  | .trap => 8
  | .interrupt => 9
  | .direction => 10
  | .overflow => 11

/-- A word with one bit replaced. -/
def putBit (f : Word) (n : Nat) (b : Bool) : Word :=
  if b then f ||| BitVec.ofNat 16 (2 ^ n) else f &&& ~~~ BitVec.ofNat 16 (2 ^ n)

/-- One flag of a FLAGS word. -/
def getFlag (f : Word) (n : Flag) : Bool := f.getLsbD n.bit

/-- A FLAGS word with one flag replaced. -/
def putFlag (f : Word) (n : Flag) (b : Bool) : Word := putBit f n.bit b

/-- `FLAGS.n` (R10). -/
def State.flag (s : State) (n : Flag) : Bool := getFlag s.flags n

/-- `FLAGS.n <- b` (R10). -/
def State.setFlag (s : State) (n : Flag) (b : Bool) : State := { s with flags := putFlag s.flags n b }

/-- `FLAGS_LOAD(v)` (R175, D15): bits 0, 2, 4 and 6 to 11 pass unchanged; the reserved bits are free (log entry 10). -/
def flagsLoad (v : Word) : Word := (v &&& 0x0FD5) ||| (Config.flagsLoadReserved v &&& 0xF02A)

/-! ## Memory (R50 to R57) -/

/-- `lin(seg, off) = u20((seg << 4) + off)` (R52). -/
def lin (seg off : Word) : Addr := BitVec.ofNat 20 (seg.toNat * 16 + off.toNat)

/-- `MemRead(a, 1)` (R53). -/
def State.memRead8 (s : State) (a : Addr) : Byte := Memory.read8 s.mem a

/-- `MemRead(a, 2)` (R55). -/
def State.memRead16 (s : State) (a : Addr) : Word := Memory.read16 s.mem a

/-- `MemWrite(a, 1, v)` (R54). -/
def State.memWrite8 (s : State) (a : Addr) (v : Byte) : State := { s with mem := Memory.write8 s.params s.mem a v }

/-- `MemWrite(a, 2, v)` (R56). -/
def State.memWrite16 (s : State) (a : Addr) (v : Word) : State := { s with mem := Memory.write16 s.params s.mem a v }

/-- A list of `MemWrite(a, 1, v)`, in order. -/
def State.memWriteAll (s : State) (ws : List (Addr × Byte)) : State :=
  { s with mem := Memory.writeAll s.params s.mem ws }

/-! ## The instruction stream (R112 to R115) -/

/-- The byte at offset `IP + k` of the code segment (R81, R113). -/
def State.codeByte (s : State) (k : Word) : Byte := s.memRead8 (lin s.cs (s.ip + k))

/-- IP moved forward over `n` fetched bytes, modulo 2^16 (R25, R113). -/
def State.advanceIp (s : State) (n : Nat) : State := { s with ip := s.ip + BitVec.ofNat 16 n }

/-- `Fetch8()` (R113): the byte at CS:IP, and the state with IP moved past it. -/
def State.fetch8 (s : State) : Byte × State := (s.codeByte 0, s.advanceIp 1)

/-- `Fetch16()` (R114): two bytes through `Fetch8`, low byte first. -/
def State.fetch16 (s : State) : Word × State := (joinBytes (s.codeByte 1) (s.codeByte 0), s.advanceIp 2)

/-- The instruction or prefix whose first byte is at CS:IP; reads have no side effect (R53, log entry 14). -/
def State.fetchInstr (s : State) : Option Instr := decodeBytes (s.codeByte 0) (s.codeByte 1) (s.codeByte 2)

/-- The prefix state cleared, as every step begins (R32, R112). -/
def State.clearPrefixes (s : State) : State := { s with segOvr := none, rep := false, repne := false }

/-- A prefix recorded (R94, R115): the last segment override wins; LOCK records nothing. -/
def State.recordPrefix (s : State) (p : Prefix) : State :=
  match p with
  | .segment r => { s with segOvr := some r }
  | .lock => s
  | .repne => { s with repne := true }
  | .rep => { s with rep := true }

/-- The prefix loop of R112 over at most `fuel` bytes: the state at the first byte that is no prefix, or
`none` when every one of them is a prefix. -/
def State.consumePrefixes (fuel : Nat) (s : State) : Option State :=
  match fuel with
  | 0 => none
  | n + 1 =>
    match s.fetchInstr with
    | none => some s
    | some i =>
      match i.toPrefix with
      | none => some s
      | some p => State.consumePrefixes n ((s.advanceIp 1).recordPrefix p)

/-- How many prefix bytes make a step hang: IP has then gone round the whole code segment (R116). -/
def prefixFuel : Nat := 65536

/-- The step never returns: outcome `Hang` (R110, R116; log entry 11). -/
def State.hang (s : State) : State := { s with hung := true }

/-- `raise InvalidOpcode(op, addr)` (R117), or a refusal where `MODRM_OPCODES` names the byte (R140; log entry 16). -/
def State.raiseInvalidOpcode (s : State) (op : Byte) (addr : Addr) : Answer :=
  if s.params.modrmOpcodes.contains op then .refused (.modrmOpcodeWithoutRule op addr)
  else .fault (.invalidOpcode op addr)

/-- InvalidOpcode for the opcode byte that stands `n` bytes before IP, as an extension form that is not
enabled raises it (R119; log entry 15). -/
def State.raiseInvalidBack (s : State) (op : Byte) (n : Nat) : Answer :=
  s.raiseInvalidOpcode op (lin s.cs (s.ip - BitVec.ofNat 16 n))

/-! ## Draws (R12; log entries 7 and 8) -/

/-- The draw counter advanced. -/
def State.countDraw (s : State) : State := { s with drawCount := s.drawCount + 1 }

/-- `r <- draw` for an 8-bit register. -/
def State.drawReg8 (s : State) (r : Reg8) : State := (s.setReg8 r (Config.freeByte s.drawCount)).countDraw

/-- `cycles <- draw(cycles)` (R122). -/
def State.drawCycles (s : State) : State :=
  { s with cycles := Config.freeCycles s.drawCount, drawCount := s.drawCount + 1 }

/-! ## The stack (R170, R171) -/

/-- `Push16(v)` (R170): SP down by 2, then the word at SS:SP. -/
def State.push16 (s : State) (v : Word) : State :=
  { s with sp := s.sp - 2, mem := Memory.write16 s.params s.mem (lin s.ss (s.sp - 2)) v }

/-- The word `Pop16()` returns (R171). -/
def State.stackTop (s : State) : Word := s.memRead16 (lin s.ss s.sp)

/-- The state after `Pop16()` (R171): SP up by 2. -/
def State.popped (s : State) : State := { s with sp := s.sp + 2 }

/-! ## Taking a software interrupt and returning from it (R280, R283, R285) -/

/-- The linear address of the vector-table entry `n` (R65, R283). -/
def ivtAddr (n : Byte) : Addr := BitVec.ofNat 20 (4 * n.toNat)

/-- The three pushes of R280: FLAGS, CS, then IP, which is the return offset. -/
def State.pushFrame (s : State) : State := ((s.push16 s.flags).push16 s.cs).push16 s.ip

/-- TF and IF cleared (R280, state MASK). -/
def State.maskInterrupts (s : State) : State := (s.setFlag .interrupt false).setFlag .trap false

/-- CS:IP loaded from the vector-table entry `n`, offset then segment (R280, state VECTOR; R283). -/
def State.loadVector (s : State) (n : Byte) : State :=
  { s with ip := s.memRead16 (ivtAddr n), cs := s.memRead16 (ivtAddr n + 2) }

/-- The generic entry through the IVT (R283, R357). -/
def State.enterInterrupt (s : State) (n : Byte) : State := (s.pushFrame.maskInterrupts).loadVector n

/-- The four bytes of the vector-table entry `n` are all zero (R284). -/
def State.ivtNull (s : State) (n : Byte) : Bool :=
  s.memRead16 (ivtAddr n) == 0 && s.memRead16 (ivtAddr n + 2) == 0

/-- The return from an interrupt (R285, R358): IP, CS and FLAGS popped, FLAGS through `FLAGS_LOAD`. -/
def State.returnFromInterrupt (s : State) : State :=
  { s with
    ip := s.stackTop
    cs := s.popped.stackTop
    flags := flagsLoad s.popped.popped.stackTop
    sp := s.sp + 6 }

end Sys2Proof.Machine
end

