-- ==== Sys2Proof/Machine/Operands.lean ====
section
/-! DEFINITION. The operand forms: the direct-offset operand, relative targets, and the ModR/M effective-address
decoder as a block of its own (spec/30_encoding.md R85 to R90, spec/41_modrm_ea.md). -/

namespace Sys2Proof.Machine

/-- `sext_16(d)` (R9). -/
def sext16 (d : Byte) : Word := d.signExtend 16

/-- The segment of a direct-offset operand: the override's, else DS (R90, R152). -/
def State.dataSeg (s : State) : Word :=
  match s.segOvr with
  | some r => s.seg r
  | none => s.ds

/-- The linear address of a direct-offset operand (R90, R152 to R155). -/
def State.moffsAddr (s : State) (off : Word) : Addr := lin s.dataSeg off

/-- `IP <- u16(IP + sext_16(d))` (R87, R231). -/
def State.jumpRel8 (s : State) (d : Byte) : State := { s with ip := s.ip + sext16 d }

/-- A conditional short jump (R231). -/
def State.jumpIf (s : State) (c : Bool) (d : Byte) : State := if c then s.jumpRel8 d else s

/-! ## The ModR/M decoder (R130 to R141) -/

/-- What the decoder produces (R130): a register selector, or a segment value and an effective offset. -/
inductive RmOperand where
  | reg (rm : Nat)
  | mem (seg ea : Word)
  deriving DecidableEq, Repr

/-- `mod`, bits 7:6 of a ModR/M byte (R96). -/
def modField (m : Byte) : Nat := m.toNat / 64

/-- `reg`, bits 5:3 of a ModR/M byte, passed through to the opcode (R96, R130). -/
def regField (m : Byte) : Nat := m.toNat / 8 % 8

/-- `rm`, bits 2:0 of a ModR/M byte (R96). -/
def rmField (m : Byte) : Nat := m.toNat % 8

/-- Base plus index of `rm` (R132); `mod = 00, rm = 110` has neither. -/
def State.rmBase (s : State) (mod rm : Nat) : Word :=
  match rm with
  | 0 => s.bx + s.si
  | 1 => s.bx + s.di
  | 2 => s.bp + s.si
  | 3 => s.bp + s.di
  | 4 => s.si
  | 5 => s.di
  | 6 => if mod = 0 then 0 else s.bp
  | _ => s.bx

/-- The displacement and the state past its bytes (R97, R133). -/
def State.rmDisp (s : State) (mod rm : Nat) : Word × State :=
  match mod with
  | 0 => if rm = 6 then s.fetch16 else (0, s)
  | 1 => (sext16 s.fetch8.1, s.fetch8.2)
  | _ => s.fetch16

/-- The default segment (R135): SS for a BP base, else DS. -/
def rmDefaultSeg (mod rm : Nat) : SegReg :=
  match rm with
  | 2 | 3 => .ss
  | 6 => if mod = 0 then .ds else .ss
  | _ => .ds

/-- The segment register used: an active override always wins (R136). -/
def State.rmSeg (s : State) (mod rm : Nat) : SegReg := s.segOvr.getD (rmDefaultSeg mod rm)

/-- The decoder (R130): the operand of a ModR/M byte, and the state past its displacement. It never fails (R141). -/
def State.decodeModRM (s : State) (m : Byte) : RmOperand × State :=
  if modField m = 3 then (.reg (rmField m), s)
  else
    (.mem (s.seg (s.rmSeg (modField m) (rmField m)))
      (s.rmBase (modField m) (rmField m) + (s.rmDisp (modField m) (rmField m)).1),
     (s.rmDisp (modField m) (rmField m)).2)

/-- `ReadRM(1)` (R138, R139). -/
def State.readRM8 (s : State) : RmOperand → Byte
  | .reg rm => s.reg8 (.ofCode rm)
  | .mem seg ea => s.memRead8 (lin seg ea)

/-- `ReadRM(2)` (R138, R139). -/
def State.readRM16 (s : State) : RmOperand → Word
  | .reg rm => s.reg16 (.ofCode rm)
  | .mem seg ea => s.memRead16 (lin seg ea)

/-- `WriteRM(1, v)` (R138, R139). -/
def State.writeRM8 (s : State) (o : RmOperand) (v : Byte) : State :=
  match o with
  | .reg rm => s.setReg8 (.ofCode rm) v
  | .mem seg ea => s.memWrite8 (lin seg ea) v

/-- `WriteRM(2, v)` (R138, R139). -/
def State.writeRM16 (s : State) (o : RmOperand) (v : Word) : State :=
  match o with
  | .reg rm => s.setReg16 (.ofCode rm) v
  | .mem seg ea => s.memWrite16 (lin seg ea) v

end Sys2Proof.Machine
end

