-- ==== Sys2Proof/Machine/Flags.lean ====
section
/-! DEFINITION. The flag engine (spec/44_arith_logic.md R190 to R198), as functions from operands and the old
FLAGS word to the new one, for any operand width. -/

namespace Sys2Proof.Machine

/-- `popcount` of a byte (R9). -/
def popcount (r : Byte) : Nat :=
  (r.getLsbD 0).toNat + (r.getLsbD 1).toNat + (r.getLsbD 2).toNat + (r.getLsbD 3).toNat +
  (r.getLsbD 4).toNat + (r.getLsbD 5).toNat + (r.getLsbD 6).toNat + (r.getLsbD 7).toNat

/-- `Parity(r)` (R190): the low byte has an even number of ones, whatever the width. -/
def parity {w : Nat} (r : BitVec w) : Bool := popcount (r.setWidth 8) % 2 == 0

/-- ZF, SF and PF from a truncated result (R191). -/
def putResult {w : Nat} (f : Word) (r : BitVec w) : Word :=
  putFlag (putFlag (putFlag f .zero (r == 0)) .sign r.msb) .parity (parity r)

/-- The six status flags: ZF, SF, PF from the result, CF, OF and AF as given. Nothing else changes (R196). -/
def putStatus {w : Nat} (f : Word) (r : BitVec w) (cf ovf af : Bool) : Word :=
  putFlag (putFlag (putFlag (putResult f r) .carry cf) .overflow ovf) .aux af

/-- AF of an addition or subtraction: `((a ^ b ^ r) & 0x10) != 0` (R191, R192, R194, R195; log entry 25). -/
def auxBit {w : Nat} (a b r : BitVec w) : Bool := (a ^^^ b ^^^ r).getLsbD 4

/-- OF of an addition: `((a ^ r) & (b ^ r) & S) != 0` (R191, R194). -/
def addOverflow {w : Nat} (a b r : BitVec w) : Bool := ((a ^^^ r) &&& (b ^^^ r)).msb

/-- OF of a subtraction: `((a ^ b) & (a ^ r) & S) != 0` (R192, R195). -/
def subOverflow {w : Nat} (a b r : BitVec w) : Bool := ((a ^^^ b) &&& (a ^^^ r)).msb

/-- FLAGS after `FlagsAdd(w, a, b)` (R191). -/
def flagsAdd {w : Nat} (f : Word) (a b : BitVec w) : Word :=
  putStatus f (a + b) (decide (2 ^ w ≤ a.toNat + b.toNat)) (addOverflow a b (a + b)) (auxBit a b (a + b))

/-- FLAGS after `FlagsSub(w, a, b)` (R192). -/
def flagsSub {w : Nat} (f : Word) (a b : BitVec w) : Word :=
  putStatus f (a - b) (decide (a.toNat < b.toNat)) (subOverflow a b (a - b)) (auxBit a b (a - b))

/-- The carry flag as a number (R194, R195). -/
def carryIn (w : Nat) (c : Bool) : BitVec w := BitVec.ofNat w c.toNat

/-- FLAGS after `FlagsAdc(w, a, b, c)` (R194). -/
def flagsAdc {w : Nat} (f : Word) (a b : BitVec w) (c : Bool) : Word :=
  putStatus f (a + b + carryIn w c) (decide (2 ^ w ≤ a.toNat + b.toNat + c.toNat))
    (addOverflow a b (a + b + carryIn w c)) (auxBit a b (a + b + carryIn w c))

/-- FLAGS after `FlagsSbb(w, a, b, c)` (R195). -/
def flagsSbb {w : Nat} (f : Word) (a b : BitVec w) (c : Bool) : Word :=
  putStatus f (a - b - carryIn w c) (decide (a.toNat < b.toNat + c.toNat))
    (subOverflow a b (a - b - carryIn w c)) (auxBit a b (a - b - carryIn w c))

/-- FLAGS after `FlagsLogic(w, r)` (R193), with the drawn AF given. -/
def flagsLogic {w : Nat} (f : Word) (r : BitVec w) (af : Bool) : Word := putStatus f r false false af

/-- `FlagsLogic(w, r)` on the state (R193): AF is a draw (log entry 7). -/
def State.logicFlags {w : Nat} (s : State) (r : BitVec w) : State :=
  { s with flags := flagsLogic s.flags r (Config.freeBit s.drawCount), drawCount := s.drawCount + 1 }

/-- FLAGS after INC (R197): `FlagsAdd(16, v, 1)` with CF restored. -/
def flagsInc (f : Word) (v : Word) : Word := putFlag (flagsAdd f v 1) .carry (getFlag f .carry)

/-- FLAGS after DEC (R197): `FlagsSub(16, v, 1)` with CF restored. -/
def flagsDec (f : Word) (v : Word) : Word := putFlag (flagsSub f v 1) .carry (getFlag f .carry)

end Sys2Proof.Machine
end

