-- ==== Sys2Proof/Machine/ArithLogic.lean ====
section
/-! DEFINITION. The meanings of the arithmetic and logic family (spec/44_arith_logic.md R200 to R219). -/

namespace Sys2Proof.Machine

/-- AL replaced by a result, FLAGS by the flag engine's word. -/
def State.putAl (s : State) (r : Byte) (f : Word) : State := { s.setReg8 .al r with flags := f }

/-- AX replaced by a result, FLAGS by the flag engine's word. -/
def State.putAx (s : State) (r f : Word) : State := { s with ax := r, flags := f }

/-- ADD AL, imm8 (R200). -/
def execAddAl (imm : Byte) (s : State) : Answer := .next (s.putAl (s.reg8 .al + imm) (flagsAdd s.flags (s.reg8 .al) imm))

/-- ADD AX, imm16 (R201). -/
def execAddAx (imm : Word) (s : State) : Answer := .next (s.putAx (s.ax + imm) (flagsAdd s.flags s.ax imm))

/-- OR AL, imm8 (R202). -/
def execOrAl (imm : Byte) (s : State) : Answer := .next ((s.setReg8 .al (s.reg8 .al ||| imm)).logicFlags (s.reg8 .al ||| imm))

/-- OR AX, imm16 (R203). -/
def execOrAx (imm : Word) (s : State) : Answer := .next ((s.setReg16 .ax (s.ax ||| imm)).logicFlags (s.ax ||| imm))

/-- AND AL, imm8 (R204). -/
def execAndAl (imm : Byte) (s : State) : Answer := .next ((s.setReg8 .al (s.reg8 .al &&& imm)).logicFlags (s.reg8 .al &&& imm))

/-- AND AX, imm16 (R205). -/
def execAndAx (imm : Word) (s : State) : Answer := .next ((s.setReg16 .ax (s.ax &&& imm)).logicFlags (s.ax &&& imm))

/-- SUB AL, imm8 (R206). -/
def execSubAl (imm : Byte) (s : State) : Answer := .next (s.putAl (s.reg8 .al - imm) (flagsSub s.flags (s.reg8 .al) imm))

/-- SUB AX, imm16 (R207). -/
def execSubAx (imm : Word) (s : State) : Answer := .next (s.putAx (s.ax - imm) (flagsSub s.flags s.ax imm))

/-- XOR AL, imm8 (R208). -/
def execXorAl (imm : Byte) (s : State) : Answer := .next ((s.setReg8 .al (s.reg8 .al ^^^ imm)).logicFlags (s.reg8 .al ^^^ imm))

/-- XOR AX, imm16 (R209). -/
def execXorAx (imm : Word) (s : State) : Answer := .next ((s.setReg16 .ax (s.ax ^^^ imm)).logicFlags (s.ax ^^^ imm))

/-- CMP AL, imm8 (R210): SUB without the result. -/
def execCmpAl (imm : Byte) (s : State) : Answer := .next { s with flags := flagsSub s.flags (s.reg8 .al) imm }

/-- CMP AX, imm16 (R211): SUB without the result. -/
def execCmpAx (imm : Word) (s : State) : Answer := .next { s with flags := flagsSub s.flags s.ax imm }

/-- INC r16 (R212): CF is kept (R197). -/
def execIncR16 (r : Reg16) (s : State) : Answer :=
  .next { s.setReg16 r (s.reg16 r + 1) with flags := flagsInc s.flags (s.reg16 r) }

/-- DEC r16 (R213): CF is kept (R197). -/
def execDecR16 (r : Reg16) (s : State) : Answer :=
  .next { s.setReg16 r (s.reg16 r - 1) with flags := flagsDec s.flags (s.reg16 r) }

/-- ADC AL, imm8, when `EXT_ACC_ALU` contains ADC (R214, R119). -/
def execAdcAl (imm : Byte) (s : State) : Answer :=
  if s.params.extAdc then
    .next (s.putAl (s.reg8 .al + imm + carryIn 8 (s.flag .carry)) (flagsAdc s.flags (s.reg8 .al) imm (s.flag .carry)))
  else s.raiseInvalidBack 0x14 2

/-- ADC AX, imm16, when `EXT_ACC_ALU` contains ADC (R215, R119). -/
def execAdcAx (imm : Word) (s : State) : Answer :=
  if s.params.extAdc then
    .next (s.putAx (s.ax + imm + carryIn 16 (s.flag .carry)) (flagsAdc s.flags s.ax imm (s.flag .carry)))
  else s.raiseInvalidBack 0x15 3

/-- SBB AL, imm8, when `EXT_ACC_ALU` contains SBB (R216, R119). -/
def execSbbAl (imm : Byte) (s : State) : Answer :=
  if s.params.extSbb then
    .next (s.putAl (s.reg8 .al - imm - carryIn 8 (s.flag .carry)) (flagsSbb s.flags (s.reg8 .al) imm (s.flag .carry)))
  else s.raiseInvalidBack 0x1C 2

/-- SBB AX, imm16, when `EXT_ACC_ALU` contains SBB (R217, R119). -/
def execSbbAx (imm : Word) (s : State) : Answer :=
  if s.params.extSbb then
    .next (s.putAx (s.ax - imm - carryIn 16 (s.flag .carry)) (flagsSbb s.flags s.ax imm (s.flag .carry)))
  else s.raiseInvalidBack 0x1D 3

/-- TEST AL, imm8, when `EXT_ACC_ALU` contains TEST (R218, R119). -/
def execTestAl (imm : Byte) (s : State) : Answer :=
  if s.params.extTest then .next (s.logicFlags (s.reg8 .al &&& imm)) else s.raiseInvalidBack 0xA8 2

/-- TEST AX, imm16, when `EXT_ACC_ALU` contains TEST (R219, R119). -/
def execTestAx (imm : Word) (s : State) : Answer :=
  if s.params.extTest then .next (s.logicFlags (s.ax &&& imm)) else s.raiseInvalidBack 0xA9 3

end Sys2Proof.Machine
end

