-- ==== Sys2Proof/Machine/ControlTransfer.lean ====
section
/-! DEFINITION. The meanings of the control-transfer family (spec/45_control_transfer.md R230 to R251). IP is
already past the instruction (IP_next), and every target is computed from it. -/

namespace Sys2Proof.Machine

/-- JO rel8: jumps when OF = 1 (R230, R231, R232). -/
def execJo (rel : Byte) (s : State) : Answer := .next (s.jumpIf (s.flag .overflow) rel)

/-- JNO rel8: jumps when OF = 0 (R230, R231, R233). -/
def execJno (rel : Byte) (s : State) : Answer := .next (s.jumpIf (!s.flag .overflow) rel)

/-- JB rel8: jumps when CF = 1 (R230, R231, R234). -/
def execJb (rel : Byte) (s : State) : Answer := .next (s.jumpIf (s.flag .carry) rel)

/-- JAE rel8: jumps when CF = 0 (R230, R231, R235). -/
def execJae (rel : Byte) (s : State) : Answer := .next (s.jumpIf (!s.flag .carry) rel)

/-- JE rel8: jumps when ZF = 1 (R230, R231, R236). -/
def execJe (rel : Byte) (s : State) : Answer := .next (s.jumpIf (s.flag .zero) rel)

/-- JNE rel8: jumps when ZF = 0 (R230, R231, R237). -/
def execJne (rel : Byte) (s : State) : Answer := .next (s.jumpIf (!s.flag .zero) rel)

/-- JBE rel8: jumps when CF = 1 or ZF = 1 (R230, R231, R238). -/
def execJbe (rel : Byte) (s : State) : Answer := .next (s.jumpIf (s.flag .carry || s.flag .zero) rel)

/-- JA rel8: jumps when CF = 0 and ZF = 0 (R230, R231, R239). -/
def execJa (rel : Byte) (s : State) : Answer := .next (s.jumpIf (!s.flag .carry && !s.flag .zero) rel)

/-- JS rel8: jumps when SF = 1 (R230, R231, R240). -/
def execJs (rel : Byte) (s : State) : Answer := .next (s.jumpIf (s.flag .sign) rel)

/-- JNS rel8: jumps when SF = 0 (R230, R231, R241). -/
def execJns (rel : Byte) (s : State) : Answer := .next (s.jumpIf (!s.flag .sign) rel)

/-- JP rel8: jumps when PF = 1 (R230, R231, R242). -/
def execJp (rel : Byte) (s : State) : Answer := .next (s.jumpIf (s.flag .parity) rel)

/-- JNP rel8: jumps when PF = 0 (R230, R231, R243). -/
def execJnp (rel : Byte) (s : State) : Answer := .next (s.jumpIf (!s.flag .parity) rel)

/-- JL rel8: jumps when SF != OF (R230, R231, R244). -/
def execJl (rel : Byte) (s : State) : Answer := .next (s.jumpIf (s.flag .sign != s.flag .overflow) rel)

/-- JGE rel8: jumps when SF = OF (R230, R231, R245). -/
def execJge (rel : Byte) (s : State) : Answer := .next (s.jumpIf (s.flag .sign == s.flag .overflow) rel)

/-- JLE rel8: jumps when ZF = 1 or SF != OF (R230, R231, R246). -/
def execJle (rel : Byte) (s : State) : Answer := .next (s.jumpIf (s.flag .zero || s.flag .sign != s.flag .overflow) rel)

/-- JG rel8: jumps when ZF = 0 and SF = OF (R230, R231, R247). -/
def execJg (rel : Byte) (s : State) : Answer := .next (s.jumpIf (!s.flag .zero && s.flag .sign == s.flag .overflow) rel)

/-- JMP rel8 (R248). -/
def execJmp (rel : Byte) (s : State) : Answer := .next (s.jumpRel8 rel)

/-- CALL rel16 (R249): the return offset is IP_next; CS is neither pushed nor changed. -/
def execCall (rel : Word) (s : State) : Answer := .next { s.push16 s.ip with ip := s.ip + rel }

/-- RET (R250). -/
def execRet (s : State) : Answer := .next { s.popped with ip := s.stackTop }

/-- LOOP rel8 (R251): no flag is written. -/
def execLoop (rel : Byte) (s : State) : Answer :=
  .next ((s.setReg16 .cx (s.cx - 1)).jumpIf (s.cx - 1 != 0) rel)

end Sys2Proof.Machine
end

