-- ==== Sys2Proof/Machine/DataMovement.lean ====
section
/-! DEFINITION. The meanings of the data-movement family (spec/42_data_movement.md). Every meaning takes the
state whose IP is already past the whole instruction (R112, R123; log entry 13). -/

namespace Sys2Proof.Machine

/-- MOV r8, imm8 (R150). -/
def execMovR8Imm (r : Reg8) (imm : Byte) (s : State) : Answer := .next (s.setReg8 r imm)

/-- MOV r16, imm16 (R151). -/
def execMovR16Imm (r : Reg16) (imm : Word) (s : State) : Answer := .next (s.setReg16 r imm)

/-- MOV AL, moffs8 (R152). -/
def execMovAlMoffs (off : Word) (s : State) : Answer := .next (s.setReg8 .al (s.memRead8 (s.moffsAddr off)))

/-- MOV AX, moffs16 (R153). -/
def execMovAxMoffs (off : Word) (s : State) : Answer := .next (s.setReg16 .ax (s.memRead16 (s.moffsAddr off)))

/-- MOV moffs8, AL (R154). -/
def execMovMoffsAl (off : Word) (s : State) : Answer := .next (s.memWrite8 (s.moffsAddr off) (s.reg8 .al))

/-- MOV moffs16, AX (R155). -/
def execMovMoffsAx (off : Word) (s : State) : Answer := .next (s.memWrite16 (s.moffsAddr off) s.ax)

/-- XCHG AX, r16 (R156). -/
def execXchgAx (r : Reg16) (s : State) : Answer := .next ((s.setReg16 .ax (s.reg16 r)).setReg16 r s.ax)

/-- NOP, the word of XCHG AX, AX (R93, R156). -/
def execNop (s : State) : Answer := .next s

end Sys2Proof.Machine
end

