-- ==== Sys2Proof/Machine/FlagControl.lean ====
section
/-! DEFINITION. The meanings of the flag-control and halt family (spec/46_flag_and_system.md R260 to R266). -/

namespace Sys2Proof.Machine

/-- CLC (R260). -/
def execClc (s : State) : Answer := .next (s.setFlag .carry false)

/-- STC (R261). -/
def execStc (s : State) : Answer := .next (s.setFlag .carry true)

/-- CLI (R262). -/
def execCli (s : State) : Answer := .next (s.setFlag .interrupt false)

/-- STI (R263). -/
def execSti (s : State) : Answer := .next (s.setFlag .interrupt true)

/-- CLD (R264). -/
def execCld (s : State) : Answer := .next (s.setFlag .direction false)

/-- STD (R265). -/
def execStd (s : State) : Answer := .next (s.setFlag .direction true)

/-- HLT (R266): the state after it is final (R111). -/
def execHlt (s : State) : Answer := .next { s with halted := true }

end Sys2Proof.Machine
end

