-- ==== Sys2Proof/Machine/Disk.lean ====
section
/-! DEFINITION. The INT 13h services, stubs that report success (spec/48_bios_services.md R320 to R324). -/

namespace Sys2Proof.Machine

/-- `FLAGS.CF <- 0; AH <- 0x00`: the report of success (R320, D50). -/
def State.diskSuccess (s : State) : State := (s.setReg8 .ah 0x00).setFlag .carry false

/-- AH = 00, reset disk (R321). -/
def diskReset (s : State) : Answer := .next s.diskSuccess

/-- AH = 02, read sectors: no byte is written; AL is a draw (R322). -/
def diskRead (s : State) : Answer := .next (s.diskSuccess.drawReg8 .al)

/-- AH = 03, write sectors: nothing is stored; AL is a draw (R323). -/
def diskWrite (s : State) : Answer := .next (s.diskSuccess.drawReg8 .al)

/-- AH = 08, get drive parameters: `DISK_GEOMETRY` (R324). -/
def diskParameters (s : State) : Answer :=
  .next { s.diskSuccess with
    cx := joinBytes s.params.geometry.ch s.params.geometry.cl
    dx := joinBytes s.params.geometry.dh s.params.geometry.dl }

/-- INT 13h: the function is selected by AH; one that is not listed does nothing (R302). -/
def serviceDisk (s : State) : Answer :=
  match (s.reg8 .ah).toNat with
  | 0x00 => diskReset s
  | 0x02 => diskRead s
  | 0x03 => diskWrite s
  | 0x08 => diskParameters s
  | _ => .next s

end Sys2Proof.Machine
end

