-- ==== Sys2Proof/Machine/Keyboard.lean ====
section
/-! DEFINITION. The keyboard ring and the INT 16h services (spec/48_bios_services.md R325 to R328). -/

namespace Sys2Proof.Machine

/-- The slot after a slot of a ring of `cap` slots (R325; log entry 21). -/
def ringNext (cap slot : Nat) : Nat := (slot + 1) % cap

/-- The ring without its oldest pair (R326): the head moves to the next slot. -/
def Ring.pop (cap : Nat) (r : Ring) : Ring :=
  match r.keys with
  | [] => r
  | _ :: rest => { r with keys := rest, head := ringNext cap r.head }

/-- The ring with a pair appended (R329): the tail moves to the next slot. -/
def Ring.push (cap : Nat) (r : Ring) (k : Key) : Ring :=
  { r with keys := r.keys ++ [k], tail := ringNext cap r.tail }

/-- `AL <- a; AH <- s` for a pair (R326, R327). -/
def keyWord (k : Key) : Word := joinBytes k.scan k.ascii

/-- The state after function 00 (R326): the oldest pair removed into AX, or AX zero. It never waits (D42). -/
def State.readKey (s : State) : State :=
  match s.bios.kbd.keys with
  | [] => { s with ax := 0 }
  | k :: _ => { s with ax := keyWord k, bios := { s.bios with kbd := s.bios.kbd.pop s.params.kbdCap } }

/-- AH = 00, read key (R326). -/
def keyboardRead (s : State) : Answer := .next s.readKey

/-- AH = 01, check key: ZF says that the ring is empty; nothing is removed (R327). -/
def keyboardCheck (s : State) : Answer :=
  match s.bios.kbd.keys with
  | [] => .next { s.setFlag .zero true with ax := 0 }
  | k :: _ => .next { s.setFlag .zero false with ax := keyWord k }

/-- AH = 02, get shift flags (R328). -/
def keyboardShift (s : State) : Answer := .next (s.setReg8 .al s.bios.shift)

/-- INT 16h: the function is selected by AH; one that is not listed does nothing (R302). -/
def serviceKeyboard (s : State) : Answer :=
  match (s.reg8 .ah).toNat with
  | 0x00 => keyboardRead s
  | 0x01 => keyboardCheck s
  | 0x02 => keyboardShift s
  | _ => .next s

end Sys2Proof.Machine
end

