-- ==== Sys2Proof/Machine/Video.lean ====
section
/-! DEFINITION. The text screen, teletype output and the INT 10h services (spec/48_bios_services.md R303 to
R315). -/

namespace Sys2Proof.Machine

/-! ## Text cells (R303) -/

/-- One cell of the text buffer: character and attribute (R303). -/
abbrev TextCell := Byte × Byte

/-- The linear address of the character byte of cell (row, col) (R303); `page` is ignored (D48). -/
def State.cellAddr (s : State) (row col : Nat) : Addr := s.params.textBase + BitVec.ofNat 20 (2 * (80 * row + col))

/-- The contents of a cell (R303). -/
def State.readCell (s : State) (row col : Nat) : TextCell :=
  (s.memRead8 (s.cellAddr row col), s.memRead8 (s.cellAddr row col + 1))

/-- The two byte writes of a cell: character, then attribute (R303; log entry 20). -/
def State.cellWrites (s : State) (row col : Nat) (c : TextCell) : List (Addr × Byte) :=
  [(s.cellAddr row col, c.1), (s.cellAddr row col + 1, c.2)]

/-- A cell written through the memory primitives, so that read-only pages apply (R300, R54). -/
def State.writeCell (s : State) (row col : Nat) (c : TextCell) : State := s.memWriteAll (s.cellWrites row col c)

/-- The byte writes of a window of `rows` by `cols` cells from (top, left) on, each cell as `f` gives it. -/
def State.windowWrites (s : State) (top left rows cols : Nat) (f : Nat → Nat → TextCell) : List (Addr × Byte) :=
  (List.range rows).flatMap fun r =>
    (List.range cols).flatMap fun c => s.cellWrites (top + r) (left + c) (f (top + r) (left + c))

/-- A window filled from `f`, which is computed from the state before: overlapping rows are copied as if
through a temporary (R309, "memmove semantics"). -/
def State.fillWindow (s : State) (top left rows cols : Nat) (f : Nat → Nat → TextCell) : State :=
  s.memWriteAll (s.windowWrites top left rows cols f)

/-- The blank cell with an attribute (D45). -/
def blankCell (attr : Byte) : TextCell := (0x20, attr)

/-- The cell a scroll up by `n` lines puts at (row, col) of a window whose last row is `bottom` (R309). -/
def State.scrolledUp (s : State) (bottom n : Nat) (attr : Byte) (row col : Nat) : TextCell :=
  if n ≠ 0 ∧ row + n ≤ bottom then s.readCell (row + n) col else blankCell attr

/-- The cell a scroll down by `n` lines puts at (row, col) of a window whose first row is `top` (R310). -/
def State.scrolledDown (s : State) (top n : Nat) (attr : Byte) (row col : Nat) : TextCell :=
  if n ≠ 0 ∧ top + n ≤ row then s.readCell (row - n) col else blankCell attr

/-! ## The cursor and teletype (R315) -/

/-- The cursor is within rows 0..24 and columns 0..79 (R36, R303). -/
def State.cursorOk (s : State) : Bool := decide (s.bios.curRow.toNat < 25) && decide (s.bios.curCol.toNat < 80)

/-- `cur_row <- row; cur_col <- col`. -/
def State.setCursor (s : State) (row col : Byte) : State := { s with bios := { s.bios with curRow := row, curCol := col } }

/-- The refusal of a service whose cursor is out of range (R303, U25; log entry 18). -/
def State.refuseCursor (s : State) : Answer := .refused (.cursorOutOfRange s.bios.curRow s.bios.curCol)

/-- `ScrollAll()` (R315): the whole buffer up by one row, row 24 blank with `attr`. -/
def State.scrollAll (s : State) : State := s.fillWindow 0 0 25 80 (s.scrolledUp 24 1 s.bios.attr)

/-- One row down at column `col`, scrolling at row 25 (R315: line feed, and NewLine with column 0). -/
def State.lineDown (s : State) (col : Byte) : State :=
  if s.bios.curRow + 1 = 25 then (s.scrollAll).setCursor 24 col else s.setCursor (s.bios.curRow + 1) col

/-- `NewLine()` (R315). -/
def State.newLine (s : State) : State := s.lineDown 0

/-- The next tab stop, `(cur_col + 8) & ~7` (R315, D44). -/
def State.tabStop (s : State) : Byte := (s.bios.curCol + 8) &&& 0xF8

/-- `Teletype(c)` with the cursor in range (R315, D44). -/
def State.putChar (s : State) (c : Byte) : State :=
  if c = 0x07 then s
  else if c = 0x08 then (if s.bios.curCol = 0 then s else s.setCursor s.bios.curRow (s.bios.curCol - 1))
  else if c = 0x09 then (if 80 ≤ s.tabStop.toNat then s.newLine else s.setCursor s.bios.curRow s.tabStop)
  else if c = 0x0A then s.lineDown s.bios.curCol
  else if c = 0x0D then s.setCursor s.bios.curRow 0
  else
    let t := s.writeCell s.bios.curRow.toNat s.bios.curCol.toNat (c, s.bios.attr)
    if s.bios.curCol + 1 = 80 then t.newLine else t.setCursor s.bios.curRow (s.bios.curCol + 1)

/-- `Teletype(c)` (R315); refused when the cursor is out of range (R303, U25). -/
def State.teletype (s : State) (c : Byte) : Answer := if s.cursorOk then .next (s.putChar c) else s.refuseCursor

/-! ## The services of INT 10h -/

/-- AH = 00, set mode (R304). -/
def videoSetMode (s : State) : Answer :=
  .next { (s.fillWindow 0 0 25 80 fun _ _ => blankCell s.bios.attr) with
    bios := { s.bios with videoMode := s.reg8 .al, curRow := 0, curCol := 0 } }

/-- AH = 01, set cursor shape (R305). -/
def videoSetShape (s : State) : Answer :=
  .next { s with bios := { s.bios with curStart := s.reg8 .ch, curEnd := s.reg8 .cl } }

/-- AH = 02, set cursor position (R306); arguments out of range are refused (R303, U25). -/
def videoSetCursor (s : State) : Answer :=
  if (s.reg8 .dh).toNat < 25 ∧ (s.reg8 .dl).toNat < 80 then .next (s.setCursor (s.reg8 .dh) (s.reg8 .dl))
  else .refused (.cursorOutOfRange (s.reg8 .dh) (s.reg8 .dl))

/-- AH = 03, get cursor position and shape (R307). -/
def videoGetCursor (s : State) : Answer :=
  .next { s with dx := joinBytes s.bios.curRow s.bios.curCol, cx := joinBytes s.bios.curStart s.bios.curEnd }

/-- AH = 05, select active page (R308). -/
def videoSelectPage (s : State) : Answer := .next { s with bios := { s.bios with page := s.reg8 .al } }

/-- The window of a scroll service, rows CH..DH and columns CL..DL, filled from `f` (R309, R310). An empty
window changes nothing; another one that is out of range is refused (R303, U25; log entry 18). -/
def State.scrollWindow (s : State) (f : Nat → Nat → TextCell) : Answer :=
  if s.reg8 .dh < s.reg8 .ch ∨ s.reg8 .dl < s.reg8 .cl then .next s
  else if 25 ≤ (s.reg8 .dh).toNat ∨ 80 ≤ (s.reg8 .dl).toNat then
    .refused (.windowOutOfRange (s.reg8 .dh) (s.reg8 .dl))
  else
    .next (s.fillWindow (s.reg8 .ch).toNat (s.reg8 .cl).toNat ((s.reg8 .dh).toNat - (s.reg8 .ch).toNat + 1)
      ((s.reg8 .dl).toNat - (s.reg8 .cl).toNat + 1) f)

/-- AH = 06, scroll up (R309). -/
def videoScrollUp (s : State) : Answer :=
  s.scrollWindow (s.scrolledUp (s.reg8 .dh).toNat (s.reg8 .al).toNat (s.reg8 .bh))

/-- AH = 07, scroll down (R310). -/
def videoScrollDown (s : State) : Answer :=
  s.scrollWindow (s.scrolledDown (s.reg8 .ch).toNat (s.reg8 .al).toNat (s.reg8 .bh))

/-- The cell under the cursor (R311 to R313). -/
def State.cursorCell (s : State) : TextCell := s.readCell s.bios.curRow.toNat s.bios.curCol.toNat

/-- AH = 08, read character and attribute at the cursor (R311). -/
def videoReadCell (s : State) : Answer :=
  if s.cursorOk then .next { s with ax := joinBytes s.cursorCell.2 s.cursorCell.1 } else s.refuseCursor

/-- One cell written at the cursor, for CX = 1 (R312, R313, D49, U26; log entry 17). -/
def State.writeAtCursor (s : State) (c : TextCell) : Answer :=
  if s.cx ≠ 1 then .refused (.repeatCountNotOne s.cx)
  else if s.cursorOk then .next (s.writeCell s.bios.curRow.toNat s.bios.curCol.toNat c)
  else s.refuseCursor

/-- AH = 09, write character and attribute at the cursor (R312). -/
def videoWriteCell (s : State) : Answer := s.writeAtCursor (s.reg8 .al, s.reg8 .bl)

/-- AH = 0A, write character only, its attribute kept (R313): the attribute byte is not written. -/
def videoWriteChar (s : State) : Answer :=
  if s.cx ≠ 1 then .refused (.repeatCountNotOne s.cx)
  else if s.cursorOk then .next (s.memWrite8 (s.cellAddr s.bios.curRow.toNat s.bios.curCol.toNat) (s.reg8 .al))
  else s.refuseCursor

/-- AH = 0E, teletype output (R314). -/
def videoTeletype (s : State) : Answer := s.teletype (s.reg8 .al)

/-- INT 10h: the function is selected by AH; one that is not listed does nothing (R302). -/
def serviceVideo (s : State) : Answer :=
  match (s.reg8 .ah).toNat with
  | 0x00 => videoSetMode s
  | 0x01 => videoSetShape s
  | 0x02 => videoSetCursor s
  | 0x03 => videoGetCursor s
  | 0x05 => videoSelectPage s
  | 0x06 => videoScrollUp s
  | 0x07 => videoScrollDown s
  | 0x08 => videoReadCell s
  | 0x09 => videoWriteCell s
  | 0x0A => videoWriteChar s
  | 0x0E => videoTeletype s
  | _ => .next s

end Sys2Proof.Machine
end

