-- ==== Sys2Proof/Machine/Dos.lean ====
section
/-! DEFINITION. The minimal DOS services of INT 21h (spec/48_bios_services.md R330 to R333). -/

namespace Sys2Proof.Machine

/-- A register drawn in the state that an answer reaches, if it reaches one. -/
def drawAfter (r : Reg8) (a : Answer) : Answer :=
  match a with
  | .next s => .next (s.drawReg8 r)
  | .fault f => .fault f
  | .refused e => .refused e

/-- AH = 01, character input with echo (R330): the keyboard read, then the echo; AH is a draw. -/
def dosInput (s : State) : Answer :=
  match s.bios.kbd.keys, s.params.dosInputEmpty with
  | [], .noEcho => drawAfter .ah (.next s.readKey)
  | _, _ => drawAfter .ah (s.readKey.teletype (s.readKey.reg8 .al))

/-- AH = 02, character output (R331): AL is a draw. -/
def dosOutput (s : State) : Answer := drawAfter .al (s.teletype (s.reg8 .dl))

/-- The loop of R332 from offset `off` of DS, over at most `fuel` bytes: it stops at '$' (0x24), which is not
printed; AL is then a draw. Out of fuel the service never ends (R332, U28). -/
def dosPrint (fuel : Nat) (off : Word) (s : State) : Answer :=
  match fuel with
  | 0 => .next s.hang
  | n + 1 =>
    if s.memRead8 (lin s.ds off) = 0x24 then .next (s.drawReg8 .al)
    else
      match s.teletype (s.memRead8 (lin s.ds off)) with
      | .next t => dosPrint n (off + 1) t
      | .fault f => .fault f
      | .refused e => .refused e

/-- More loop rounds than the loop of R332 has states: the offset (2^16), the cursor (2^16) and the 4000
bytes of the text buffer (2^32000) are all it changes, so one that has not stopped by then never stops
(log entry 19). -/
def dosPrintFuel : Nat := (2 ^ 250) ^ 132

/-- AH = 09, string output from DS:DX (R332, D53). -/
def dosString (s : State) : Answer := dosPrint dosPrintFuel s.dx s

/-- AH = 4C, program exit (R333). -/
def dosExit (s : State) : Answer := .next { s with halted := true }

/-- INT 21h: the function is selected by AH; one that is not listed does nothing (R302). -/
def serviceDos (s : State) : Answer :=
  match (s.reg8 .ah).toNat with
  | 0x01 => dosInput s
  | 0x02 => dosOutput s
  | 0x09 => dosString s
  | 0x4C => dosExit s
  | _ => .next s

end Sys2Proof.Machine
end

