-- ==== Sys2Proof/Machine/Interrupts.lean ====
section
/-! DEFINITION. The software-interrupt dispatch and the return from one (spec/47_interrupts.md R280 to R285). -/

namespace Sys2Proof.Machine

/-- A vector routed to the service layer, whatever its vector-table entry holds (R282). -/
def intercepted (n : Byte) : Bool := n == 0x10 || n == 0x13 || n == 0x16 || n == 0x21

/-- The service of an intercepted vector (R282, R300). -/
def service (n : Byte) (s : State) : Answer :=
  match n.toNat with
  | 0x10 => serviceVideo s
  | 0x13 => serviceDisk s
  | 0x16 => serviceKeyboard s
  | 0x21 => serviceDos s
  | _ => .next s

/-- INT imm8: the dispatch of R280, from the state CLASSIFY on (R281 to R284). -/
def execInt (vector : Byte) (s : State) : Answer :=
  if intercepted vector then service vector s
  else if s.params.ivtNullIgnored && s.ivtNull vector then .next s
  else .next (s.enterInterrupt vector)

/-- IRET (R285). -/
def execIret (s : State) : Answer := .next s.returnFromInterrupt

end Sys2Proof.Machine
end

