-- ==== Sys2Proof/Machine/Prefixes.lean ====
section
/-! DEFINITION. The meanings of the seven prefix rows (spec/40_engine_step.md R115, spec/30_encoding.md R94):
each records itself. The prefix loop of a step is `State.consumePrefixes` of Machine/Ops.lean. -/

namespace Sys2Proof.Machine

/-- The prefix ES: (R115). -/
def execSegEs (s : State) : Answer := .next (s.recordPrefix (.segment .es))

/-- The prefix CS: (R115). -/
def execSegCs (s : State) : Answer := .next (s.recordPrefix (.segment .cs))

/-- The prefix SS: (R115). -/
def execSegSs (s : State) : Answer := .next (s.recordPrefix (.segment .ss))

/-- The prefix DS: (R115). -/
def execSegDs (s : State) : Answer := .next (s.recordPrefix (.segment .ds))

/-- The prefix LOCK: accepted and ignored (R115, R68). -/
def execLock (s : State) : Answer := .next (s.recordPrefix .lock)

/-- The prefix REPNE (R115). -/
def execRepne (s : State) : Answer := .next (s.recordPrefix .repne)

/-- The prefix REP (R115). -/
def execRep (s : State) : Answer := .next (s.recordPrefix .rep)

end Sys2Proof.Machine
end

