-- ==== Sys2Proof/Machine/Stack.lean ====
section
/-! DEFINITION. The meanings of the stack family (spec/43_stack.md R172 to R175). -/

namespace Sys2Proof.Machine

/-- The value PUSH r16 stores: for SP it is `PUSH_SP_VALUE`'s (R172). -/
def State.pushValue (s : State) (r : Reg16) : Word :=
  match r, s.params.pushSpValue with
  | .sp, .new => s.sp - 2
  | r, _ => s.reg16 r

/-- PUSH r16 (R172). -/
def execPushR16 (r : Reg16) (s : State) : Answer := .next (s.push16 (s.pushValue r))

/-- POP r16 (R173): the register is written after SP has moved, so POP SP ends with the popped value. -/
def execPopR16 (r : Reg16) (s : State) : Answer := .next (s.popped.setReg16 r s.stackTop)

/-- PUSHF (R174). -/
def execPushf (s : State) : Answer := .next (s.push16 s.flags)

/-- POPF (R175). -/
def execPopf (s : State) : Answer := .next { s.popped with flags := flagsLoad s.stackTop }

end Sys2Proof.Machine
end

