-- ==== Sys2Proof/Machine/Dispatch.lean ====
section
/-! DEFINITION. The dispatch: one arm per constructor of Instr, each one direct call of its meaning. -/

namespace Sys2Proof.Machine

/-- The rule named for an instruction in spec/opcode_table.json, on a state whose IP is past it (R112). -/
def exec (i : Instr) (s : State) : Host.Outcome State Fault Refusal :=
  match i with
  | .addAl imm => Sys2Proof.Machine.execAddAl imm s
  | .addAx imm => Sys2Proof.Machine.execAddAx imm s
  | .orAl imm => Sys2Proof.Machine.execOrAl imm s
  | .orAx imm => Sys2Proof.Machine.execOrAx imm s
  | .andAl imm => Sys2Proof.Machine.execAndAl imm s
  | .andAx imm => Sys2Proof.Machine.execAndAx imm s
  | .subAl imm => Sys2Proof.Machine.execSubAl imm s
  | .subAx imm => Sys2Proof.Machine.execSubAx imm s
  | .xorAl imm => Sys2Proof.Machine.execXorAl imm s
  | .xorAx imm => Sys2Proof.Machine.execXorAx imm s
  | .cmpAl imm => Sys2Proof.Machine.execCmpAl imm s
  | .cmpAx imm => Sys2Proof.Machine.execCmpAx imm s
  | .incR16 r => Sys2Proof.Machine.execIncR16 r s
  | .decR16 r => Sys2Proof.Machine.execDecR16 r s
  | .pushR16 r => Sys2Proof.Machine.execPushR16 r s
  | .popR16 r => Sys2Proof.Machine.execPopR16 r s
  | .jo rel => Sys2Proof.Machine.execJo rel s
  | .jno rel => Sys2Proof.Machine.execJno rel s
  | .jb rel => Sys2Proof.Machine.execJb rel s
  | .jae rel => Sys2Proof.Machine.execJae rel s
  | .je rel => Sys2Proof.Machine.execJe rel s
  | .jne rel => Sys2Proof.Machine.execJne rel s
  | .jbe rel => Sys2Proof.Machine.execJbe rel s
  | .ja rel => Sys2Proof.Machine.execJa rel s
  | .js rel => Sys2Proof.Machine.execJs rel s
  | .jns rel => Sys2Proof.Machine.execJns rel s
  | .jp rel => Sys2Proof.Machine.execJp rel s
  | .jnp rel => Sys2Proof.Machine.execJnp rel s
  | .jl rel => Sys2Proof.Machine.execJl rel s
  | .jge rel => Sys2Proof.Machine.execJge rel s
  | .jle rel => Sys2Proof.Machine.execJle rel s
  | .jg rel => Sys2Proof.Machine.execJg rel s
  | .nop => Sys2Proof.Machine.execNop s
  | .xchgAx r => Sys2Proof.Machine.execXchgAx r s
  | .pushf => Sys2Proof.Machine.execPushf s
  | .popf => Sys2Proof.Machine.execPopf s
  | .movAlMoffs off => Sys2Proof.Machine.execMovAlMoffs off s
  | .movAxMoffs off => Sys2Proof.Machine.execMovAxMoffs off s
  | .movMoffsAl off => Sys2Proof.Machine.execMovMoffsAl off s
  | .movMoffsAx off => Sys2Proof.Machine.execMovMoffsAx off s
  | .movR8Imm r imm => Sys2Proof.Machine.execMovR8Imm r imm s
  | .movR16Imm r imm => Sys2Proof.Machine.execMovR16Imm r imm s
  | .ret => Sys2Proof.Machine.execRet s
  | .int vector => Sys2Proof.Machine.execInt vector s
  | .iret => Sys2Proof.Machine.execIret s
  | .loop rel => Sys2Proof.Machine.execLoop rel s
  | .call rel => Sys2Proof.Machine.execCall rel s
  | .jmp rel => Sys2Proof.Machine.execJmp rel s
  | .hlt => Sys2Proof.Machine.execHlt s
  | .clc => Sys2Proof.Machine.execClc s
  | .stc => Sys2Proof.Machine.execStc s
  | .cli => Sys2Proof.Machine.execCli s
  | .sti => Sys2Proof.Machine.execSti s
  | .cld => Sys2Proof.Machine.execCld s
  | .std => Sys2Proof.Machine.execStd s
  | .adcAl imm => Sys2Proof.Machine.execAdcAl imm s
  | .adcAx imm => Sys2Proof.Machine.execAdcAx imm s
  | .sbbAl imm => Sys2Proof.Machine.execSbbAl imm s
  | .sbbAx imm => Sys2Proof.Machine.execSbbAx imm s
  | .testAl imm => Sys2Proof.Machine.execTestAl imm s
  | .testAx imm => Sys2Proof.Machine.execTestAx imm s
  | .segEs => Sys2Proof.Machine.execSegEs s
  | .segCs => Sys2Proof.Machine.execSegCs s
  | .segSs => Sys2Proof.Machine.execSegSs s
  | .segDs => Sys2Proof.Machine.execSegDs s
  | .lock => Sys2Proof.Machine.execLock s
  | .repne => Sys2Proof.Machine.execRepne s
  | .rep => Sys2Proof.Machine.execRep s

end Sys2Proof.Machine
end

