-- ==== Sys2Proof/Machine/Step.lean ====
section
/-! DEFINITION. One step of the core (spec/40_engine_step.md R112), running it repeatedly (R124), and placing an
opcode-table word where a step fetches. -/

namespace Sys2Proof.Machine

/-- The end of a step (R112): the cycle counter is drawn; a fault and a refusal end the step as they are. -/
def finishStep (a : Answer) : Answer :=
  match a with
  | .next s => .next s.drawCycles
  | .fault f => .fault f
  | .refused e => .refused e

/-- What follows the prefix loop (R112): the opcode's rule runs on the state past its bytes, or the step ends
with InvalidOpcode for the byte and its linear address (R117). -/
def runOpcode (s : State) : Answer :=
  match s.fetchInstr with
  | none => s.raiseInvalidOpcode (s.codeByte 0) (lin s.cs s.ip)
  | some i => finishStep (exec i (s.advanceIp i.length))

/-- One step (R110, R112). A hung step never ends (R116); a halted state has no transition (R111). -/
def step (s : State) : Host.Outcome State Fault Refusal :=
  if s.hung then .next s
  else if s.halted then .fault .haltedNoTransition
  else
    match State.consumePrefixes prefixFuel s.clearPrefixes with
    | none => .next s.hang
    | some t => runOpcode t

/-- `run`, cut off after `n` steps (R124): it stops at a halted state without error, and at a fault. -/
def run (n : Nat) (s : State) : Answer :=
  match n with
  | 0 => .next s
  | k + 1 =>
    if s.halted then .next s
    else
      match step s with
      | .next t => run k t
      | .fault f => .fault f
      | .refused e => .refused e

/-- Memory with bytes placed from an offset of a segment on, as a load would place them. -/
def placeBytes (m : Memory) (cs ip : Word) (bytes : List Byte) : Memory :=
  match bytes with
  | [] => m
  | b :: t => placeBytes (Memory.set m (lin cs ip).toNat b) cs (ip + 1) t

/-- The state with an opcode-table word's bytes at CS:IP (log entry 23): memory is all that changes. -/
def State.withFetchWord (s : State) (nbits w : Nat) : State :=
  { s with mem := placeBytes s.mem s.cs s.ip (tableBytes nbits w) }

end Sys2Proof.Machine
end

