-- ==== Sys2Proof/Machine/HostInterface.lean ====
section
/-! DEFINITION. What the host can do between steps and what it is shown (spec/48_bios_services.md R329, R340,
spec/70_reset_and_hazards.md R384, spec/20_memory.md R73). No step calls any of it (log entry 26). -/

namespace Sys2Proof.Machine

/-- The loader's failures (R350, R384). -/
inductive LoadError where
  | fileNotFound
  | fileTooLarge
  deriving DecidableEq, Repr

/-- One byte of a file put at `u20(addr)` (R384), under `LOADER_RO_POLICY` (D7). -/
def loadByte (p : Params) (m : Memory) (addr : Nat) (b : Byte) : Memory :=
  match p.loaderRoPolicy with
  | .honour => Memory.write8 p m (BitVec.ofNat 20 addr) b
  | .bypass => Memory.set m (addr % 2 ^ 20) b

/-- Byte `i` of the file at `u20(addr + i)` (R384). -/
def loadBytes (p : Params) (m : Memory) (addr : Nat) (bytes : List Byte) : Memory :=
  match bytes with
  | [] => m
  | b :: t => loadBytes p (loadByte p m addr b) (addr + 1) t

/-- `load_binary` (R384): no file, a file too long, or its bytes in memory. -/
def State.loadBinary (s : State) (file : Option (List Byte)) (addr : Nat) : Except LoadError State :=
  match file with
  | none => .error .fileNotFound
  | some bytes =>
    if 0x100000 - addr < bytes.length then .error .fileTooLarge
    else .ok { s with mem := loadBytes s.params s.mem addr bytes }

/-- A key pair appended to the ring, or dropped when it is full (R329, D43). -/
def State.injectKey (s : State) (k : Key) : State :=
  if s.bios.kbd.keys.length < s.params.kbdCap then
    { s with bios := { s.bios with kbd := s.bios.kbd.push s.params.kbdCap k } }
  else s

/-- The shift-flag byte set by the host (R329). -/
def State.injectShift (s : State) (b : Byte) : State := { s with bios := { s.bios with shift := b } }

/-- `dump(addr, buffer, len)` (R73). -/
def State.dump (s : State) (addr : Nat) (len : Nat) : List Byte :=
  (List.range len).map fun i => s.memRead8 (BitVec.ofNat 20 (addr + i))

/-- The view of the 80x25 buffer that the display collaborator renders (R340), row by row. -/
def State.displayView (s : State) : List TextCell :=
  (List.range 25).flatMap fun r => (List.range 80).map fun c => s.readCell r c

end Sys2Proof.Machine
end

