-- ==== Sys2Proof/Safety.lean ====
section
/-! DEFINITION. The terms the claims use: where a run stands, the invariant of the machine, what a store does
to memory, what the status flags are after an operation, which instruction may write what (R24, R28), and the
tables of the spec that claims compare the model with (R88, R94, R315). -/

namespace Sys2Proof.Machine

/-! ## Runs and invariants -/

/-- Where a run stands after a step (R110): it goes on, it has ended normally, or the step never returns. -/
inductive RunStatus where
  | continues
  | halted
  | hangs
  deriving DecidableEq, Repr

/-- The status of a state: the outcomes `Continue`, `Halted` and `Hang` of R110. -/
def State.status (s : State) : RunStatus := if s.hung then .hangs else if s.halted then .halted else .continues

/-- A ring of `cap` slots: at most `cap` pairs (R325), and the tail lies as many slots after the head as there
are pairs, counting round the ring (R36; log entry 21). -/
abbrev Ring.Wf (cap : Nat) (r : Ring) : Prop :=
  r.keys.length ≤ cap ∧ r.head < cap ∧ r.tail = (r.head + r.keys.length) % cap

/-- What every step keeps: memory is canonical, the cursor is on the screen (R36), the keyboard ring is one of
`KBD_CAP` slots (R36, R325). -/
structure State.Inv (s : State) : Prop where
  memory : Memory.wf s.mem = true
  cursor : s.bios.curRow.toNat < 25 ∧ s.bios.curCol.toNat < 80
  ring : s.bios.kbd.Wf s.params.kbdCap

/-- The answer `r` of a step whose instruction answered `a` (R112, R122): the same stop, or the same state with
the cycle counter drawn (a free value) and the draw counted. -/
def StepEnds (a r : Answer) : Prop :=
  match a with
  | .next t => ∃ c : Nat, r = .next { t with cycles := c, drawCount := t.drawCount + 1 }
  | .fault f => r = .fault f
  | .refused e => r = .refused e

/-! ## Memory -/

/-- The page of a linear address is marked read-only in `RO_PAGES` (R54, R64). -/
def roAt (p : Params) (a : Addr) : Bool := p.roPages.getLsbD (a.toNat / 4096)

/-- Memory `m'` is `m` after `MemWrite(a, 1, v)` (R54), byte by byte. -/
def ByteStored (p : Params) (m m' : Memory) (a : Addr) (v : Byte) : Prop :=
  Memory.read8 m' a = (if roAt p a then Memory.read8 m a else v) ∧
  ∀ c : Addr, c ≠ a → Memory.read8 m' c = Memory.read8 m c

/-- Memory `m'` is `m` after `MemWrite(a, 2, v)` (R56), byte by byte: the low byte at `a`, the high byte at
`a + 1`, each kept out of a read-only page as `RO_WORD_POLICY` says, and every other byte as before. -/
def WordStored (p : Params) (m m' : Memory) (a : Addr) (v : Word) : Prop :=
  Memory.read8 m' a = (if roAt p a then Memory.read8 m a else v.extractLsb' 0 8) ∧
  Memory.read8 m' (a + 1) =
    (if roAt p (match p.roWordPolicy with | .perByte => a + 1 | .firstByte => a) then Memory.read8 m (a + 1)
     else v.extractLsb' 8 8) ∧
  ∀ c : Addr, c ≠ a → c ≠ a + 1 → Memory.read8 m' c = Memory.read8 m c

/-- Both bytes of the word at an address lie in writable pages. -/
def WordWritable (p : Params) (a : Addr) : Prop := roAt p a = false ∧ roAt p (a + 1) = false

/-- No byte of the text buffer lies in a read-only page (R303, R54). -/
def TextWritable (p : Params) : Prop := ∀ k : Nat, k < 4000 → roAt p (p.textBase + BitVec.ofNat 20 k) = false

/-- An address is one of the 4000 bytes of the text buffer (R303). -/
def inTextBuffer (p : Params) (a : Addr) : Bool := decide ((a - p.textBase).toNat < 4000)

/-! ## Flags -/

/-- The byte has an even number of ones (R190). -/
def evenOnes (b : Byte) : Bool := ((List.range 8).filter fun k => b.getLsbD k).length % 2 == 0

/-- `f'` has the six status bits given, at their places in FLAGS (R27), and every other bit of `f` (R196). -/
def StatusBits (f f' : Word) (cf pf af zf sf ovf : Bool) : Prop :=
  f'.getLsbD 0 = cf ∧ f'.getLsbD 2 = pf ∧ f'.getLsbD 4 = af ∧ f'.getLsbD 6 = zf ∧ f'.getLsbD 7 = sf ∧
  f'.getLsbD 11 = ovf ∧ ∀ n : Nat, n ∉ [0, 2, 4, 6, 7, 11] → f'.getLsbD n = f.getLsbD n

/-- `f'` is `f` with bit `k` as given. -/
def OneBit (f f' : Word) (k : Nat) (b : Bool) : Prop := ∀ n : Nat, f'.getLsbD n = if n = k then b else f.getLsbD n

/-- `f'` has the flags with a meaning (bits 0, 2, 4, 6 to 11) of `v`: what `FLAGS_LOAD` passes through (R175). -/
def LoadsFlags (v f' : Word) : Prop := ∀ n ∈ [0, 2, 4, 6, 7, 8, 9, 10, 11], f'.getLsbD n = v.getLsbD n

/-- `a` is the next state that differs from `s` in AL, which is `r`, and in the status bits: PF, ZF and SF are
those of `r`, CF, AF and OF as given. AH and everything else stay. -/
def AlResult (s : State) (a : Answer) (r : Byte) (cf af ovf : Bool) : Prop :=
  ∃ f : Word, a = .next { s with ax := (s.ax &&& 0xFF00) ||| r.setWidth 16, flags := f } ∧
    StatusBits s.flags f cf (evenOnes r) af (r == 0) (r.getLsbD 7) ovf

/-- `a` is the next state that differs from `s` in AX, which is `r`, and in the status bits. -/
def AxResult (s : State) (a : Answer) (r : Word) (cf af ovf : Bool) : Prop :=
  ∃ f : Word, a = .next { s with ax := r, flags := f } ∧
    StatusBits s.flags f cf (evenOnes (r.setWidth 8)) af (r == 0) (r.getLsbD 15) ovf

/-- `a` is the next state that differs from `s` in the status bits only, those of a result `r` of width 8 or 16. -/
def FlagsResult {w : Nat} (s : State) (a : Answer) (r : BitVec w) (cf af ovf : Bool) : Prop :=
  ∃ f : Word, a = .next { s with flags := f } ∧
    StatusBits s.flags f cf (evenOnes (r.setWidth 8)) af (r == 0) (r.getLsbD (w - 1)) ovf

/-- The instruction `i d` is the short jump with opcode `op` that is taken when `c` holds (R231). -/
def JumpsWhen (i : Byte → Instr) (op : Byte) (c : State → Prop) : Prop :=
  ∀ (d : Byte) (s : State), encode (i d) = [op, d] ∧
    (c s → exec (i d) s = .next { s with ip := s.ip + d.signExtend 16 }) ∧ (¬ c s → exec (i d) s = .next s)

/-! ## Tables of the spec -/

/-- The bytes marked `-` in the opcode map (R88), row by row. -/
def dashBytes : List Nat :=
  [0x00, 0x01, 0x02, 0x03, 0x06, 0x07, 0x08, 0x09, 0x0A, 0x0B, 0x0E, 0x0F] ++
  [0x10, 0x11, 0x12, 0x13, 0x16, 0x17, 0x18, 0x19, 0x1A, 0x1B, 0x1E, 0x1F] ++
  [0x20, 0x21, 0x22, 0x23, 0x27, 0x28, 0x29, 0x2A, 0x2B, 0x2F] ++
  [0x30, 0x31, 0x32, 0x33, 0x37, 0x38, 0x39, 0x3A, 0x3B, 0x3F] ++
  [0x60, 0x61, 0x62, 0x63, 0x64, 0x65, 0x66, 0x67, 0x68, 0x69, 0x6A, 0x6B, 0x6C, 0x6D, 0x6E, 0x6F] ++
  [0x80, 0x81, 0x82, 0x83, 0x84, 0x85, 0x86, 0x87, 0x88, 0x89, 0x8A, 0x8B, 0x8C, 0x8D, 0x8E, 0x8F] ++
  [0x98, 0x99, 0x9A, 0x9B, 0x9E, 0x9F] ++
  [0xA4, 0xA5, 0xA6, 0xA7, 0xAA, 0xAB, 0xAC, 0xAD, 0xAE, 0xAF] ++
  [0xC0, 0xC1, 0xC2, 0xC4, 0xC5, 0xC6, 0xC7, 0xC8, 0xC9, 0xCA, 0xCB, 0xCC, 0xCE] ++
  [0xD0, 0xD1, 0xD2, 0xD3, 0xD4, 0xD5, 0xD6, 0xD7, 0xD8, 0xD9, 0xDA, 0xDB, 0xDC, 0xDD, 0xDE, 0xDF] ++
  [0xE0, 0xE1, 0xE3, 0xE4, 0xE5, 0xE6, 0xE7, 0xE9, 0xEA, 0xEC, 0xED, 0xEE, 0xEF] ++
  [0xF1, 0xF5, 0xF6, 0xF7, 0xFE, 0xFF]

/-- The prefix of a byte (R94). -/
def prefixOfByte (b : Byte) : Option Prefix :=
  if b = 0x26 then some (.segment .es)
  else if b = 0x2E then some (.segment .cs)
  else if b = 0x36 then some (.segment .ss)
  else if b = 0x3E then some (.segment .ds)
  else if b = 0xF0 then some .lock
  else if b = 0xF2 then some .repne
  else if b = 0xF3 then some .rep
  else none

/-- The bytes at CS:IP begin with the prefixes `ps`, in this order (R80, R115). -/
def BeginsWithPrefixes (s : State) (ps : List Prefix) : Prop :=
  ∀ (k : Nat) (h : k < ps.length), prefixOfByte (s.memRead8 (lin s.cs (s.ip + BitVec.ofNat 16 k))) = some ps[k]

/-- The segment register of a segment-override prefix. -/
def segmentOf : Prefix → Option SegReg
  | .segment r => some r
  | _ => none

/-- Which general registers an instruction may write (R24, with R170 and R171 for SP). -/
def mayWriteReg (i : Instr) (r : Reg16) : Bool :=
  match i with
  | .addAl _ | .addAx _ | .orAl _ | .orAx _ | .andAl _ | .andAx _ => r = .ax
  | .subAl _ | .subAx _ | .xorAl _ | .xorAx _ | .adcAl _ | .adcAx _ | .sbbAl _ | .sbbAx _ => r = .ax
  | .movAlMoffs _ | .movAxMoffs _ => r = .ax
  | .incR16 q | .decR16 q | .movR16Imm q _ => r = q
  | .movR8Imm q _ => r = halfWord q
  | .xchgAx q => r = .ax ∨ r = q
  | .pushR16 _ | .pushf | .popf | .call _ | .ret | .iret => r = .sp
  | .popR16 q => r = .sp ∨ r = q
  | .loop _ => r = .cx
  | .int _ => r = .sp ∨ r = .ax ∨ r = .cx ∨ r = .dx
  | .cmpAl _ | .cmpAx _ | .jo _ | .jno _ | .jb _ | .jae _ | .je _ | .jne _ | .jbe _ | .ja _ | .js _ => false
  | .jns _ | .jp _ | .jnp _ | .jl _ | .jge _ | .jle _ | .jg _ | .nop | .movMoffsAl _ | .movMoffsAx _ => false
  | .jmp _ | .hlt | .clc | .stc | .cli | .sti | .cld | .std | .testAl _ | .testAx _ | .segEs | .segCs => false
  | .segSs | .segDs | .lock | .repne | .rep => false

/-- Which bits of FLAGS an instruction may write (R28 to R30; for INT: R283, R320 and R327). -/
def mayWriteFlagBit (i : Instr) (n : Nat) : Bool :=
  match i with
  | .addAl _ | .addAx _ | .subAl _ | .subAx _ | .cmpAl _ | .cmpAx _ => n ∈ [0, 2, 4, 6, 7, 11]
  | .orAl _ | .orAx _ | .andAl _ | .andAx _ | .xorAl _ | .xorAx _ => n ∈ [0, 2, 4, 6, 7, 11]
  | .adcAl _ | .adcAx _ | .sbbAl _ | .sbbAx _ | .testAl _ | .testAx _ => n ∈ [0, 2, 4, 6, 7, 11]
  | .incR16 _ | .decR16 _ => n ∈ [2, 4, 6, 7, 11]
  | .clc | .stc => n = 0
  | .cli | .sti => n = 9
  | .cld | .std => n = 10
  | .popf | .iret => true
  | .int _ => n ∈ [0, 6, 8, 9]
  | .pushR16 _ | .popR16 _ | .jo _ | .jno _ | .jb _ | .jae _ | .je _ | .jne _ | .jbe _ | .ja _ | .js _ => false
  | .jns _ | .jp _ | .jnp _ | .jl _ | .jge _ | .jle _ | .jg _ | .nop | .xchgAx _ | .pushf | .movAlMoffs _ => false
  | .movAxMoffs _ | .movMoffsAl _ | .movMoffsAx _ | .movR8Imm _ _ | .movR16Imm _ _ | .ret | .loop _ => false
  | .call _ | .jmp _ | .hlt | .segEs | .segCs | .segSs | .segDs | .lock | .repne | .rep => false

/-- Which instructions may write memory (R61). -/
def mayStore (i : Instr) : Bool :=
  match i with
  | .movMoffsAl _ | .movMoffsAx _ | .pushR16 _ | .pushf | .call _ | .int _ => true
  | .addAl _ | .addAx _ | .orAl _ | .orAx _ | .andAl _ | .andAx _ | .subAl _ | .subAx _ | .xorAl _ => false
  | .xorAx _ | .cmpAl _ | .cmpAx _ | .incR16 _ | .decR16 _ | .popR16 _ | .jo _ | .jno _ | .jb _ | .jae _ => false
  | .je _ | .jne _ | .jbe _ | .ja _ | .js _ | .jns _ | .jp _ | .jnp _ | .jl _ | .jge _ | .jle _ | .jg _ => false
  | .nop | .xchgAx _ | .popf | .movAlMoffs _ | .movAxMoffs _ | .movR8Imm _ _ | .movR16Imm _ _ | .ret => false
  | .iret | .loop _ | .jmp _ | .hlt | .clc | .stc | .cli | .sti | .cld | .std | .adcAl _ | .adcAx _ => false
  | .sbbAl _ | .sbbAx _ | .testAl _ | .testAx _ | .segEs | .segCs | .segSs | .segDs | .lock | .repne | .rep => false

/-- Which instructions may set IP to something else than the byte after them (R25): the jumps, JMP, CALL, RET, LOOP,
IRET, and INT through the vector table; an intercepted INT goes on after itself (R282). -/
def mayMoveIp (i : Instr) : Bool :=
  match i with
  | .jo _ | .jno _ | .jb _ | .jae _ | .je _ | .jne _ | .jbe _ | .ja _ | .js _ | .jns _ | .jp _ | .jnp _ => true
  | .jl _ | .jge _ | .jle _ | .jg _ | .ret | .iret | .loop _ | .call _ | .jmp _ => true
  | .int n => n ∉ [0x10, 0x13, 0x16, 0x21]
  | .addAl _ | .addAx _ | .orAl _ | .orAx _ | .andAl _ | .andAx _ | .subAl _ | .subAx _ | .xorAl _ => false
  | .xorAx _ | .cmpAl _ | .cmpAx _ | .incR16 _ | .decR16 _ | .pushR16 _ | .popR16 _ | .nop | .xchgAx _ => false
  | .pushf | .popf | .movAlMoffs _ | .movAxMoffs _ | .movMoffsAl _ | .movMoffsAx _ | .movR8Imm _ _ => false
  | .movR16Imm _ _ | .hlt | .clc | .stc | .cli | .sti | .cld | .std | .adcAl _ | .adcAx _ | .sbbAl _ => false
  | .sbbAx _ | .testAl _ | .testAx _ | .segEs | .segCs | .segSs | .segDs | .lock | .repne | .rep => false

/-- Which instructions may take a draw besides the cycle counter's: logical operations (R193), disk services
(R322, R323) and DOS services (R330 to R332). -/
def mayDraw (i : Instr) : Bool :=
  match i with
  | .orAl _ | .orAx _ | .andAl _ | .andAx _ | .xorAl _ | .xorAx _ | .testAl _ | .testAx _ => true
  | .int n => n ∈ [0x13, 0x21]
  | .addAl _ | .addAx _ | .subAl _ | .subAx _ | .cmpAl _ | .cmpAx _ | .incR16 _ | .decR16 _ | .pushR16 _ => false
  | .popR16 _ | .jo _ | .jno _ | .jb _ | .jae _ | .je _ | .jne _ | .jbe _ | .ja _ | .js _ | .jns _ | .jp _ => false
  | .jnp _ | .jl _ | .jge _ | .jle _ | .jg _ | .nop | .xchgAx _ | .pushf | .popf | .movAlMoffs _ => false
  | .movAxMoffs _ | .movMoffsAl _ | .movMoffsAx _ | .movR8Imm _ _ | .movR16Imm _ _ | .ret | .iret => false
  | .loop _ | .call _ | .jmp _ | .hlt | .clc | .stc | .cli | .sti | .cld | .std | .adcAl _ | .adcAx _ => false
  | .sbbAl _ | .sbbAx _ | .segEs | .segCs | .segSs | .segDs | .lock | .repne | .rep => false

/-- For an extension instruction that `EXT_ACC_ALU` does not contain (R91): its opcode byte, and how many bytes
before the IP past it that byte stands. -/
def disabledExtension (p : Params) (i : Instr) : Option (Byte × Nat) :=
  match i with
  | .adcAl _ => if p.extAdc then none else some (0x14, 2)
  | .adcAx _ => if p.extAdc then none else some (0x15, 3)
  | .sbbAl _ => if p.extSbb then none else some (0x1C, 2)
  | .sbbAx _ => if p.extSbb then none else some (0x1D, 3)
  | .testAl _ => if p.extTest then none else some (0xA8, 2)
  | .testAx _ => if p.extTest then none else some (0xA9, 3)
  | _ => none

/-- The functions a service vector lists (R304 to R333), by the value of AH. -/
def listedFunctions (n : Byte) : List Nat :=
  if n = 0x10 then [0x00, 0x01, 0x02, 0x03, 0x05, 0x06, 0x07, 0x08, 0x09, 0x0A, 0x0E]
  else if n = 0x13 then [0x00, 0x02, 0x03, 0x08]
  else if n = 0x16 then [0x00, 0x01, 0x02]
  else if n = 0x21 then [0x01, 0x02, 0x09, 0x4C]
  else []

/-- Teletype prints a glyph for every byte but bell, backspace, tab, line feed and carriage return (R315). -/
def isGlyph (c : Byte) : Bool := c ≠ 0x07 ∧ c ≠ 0x08 ∧ c ≠ 0x09 ∧ c ≠ 0x0A ∧ c ≠ 0x0D

/-- Teletype of `c` with the cursor in column `col` goes down a row (R315). -/
def teletypeDown (c : Byte) (col : Nat) : Bool :=
  c = 0x0A ∨ (c = 0x09 ∧ 80 ≤ (col / 8 + 1) * 8) ∨ (isGlyph c ∧ col = 79)

/-- The column after teletype of `c` in column `col` (R315). -/
def teletypeCol (c : Byte) (col : Nat) : Nat :=
  if c = 0x08 then col - 1
  else if c = 0x0D then 0
  else if c = 0x09 then (if 80 ≤ (col / 8 + 1) * 8 then 0 else (col / 8 + 1) * 8)
  else if isGlyph c then (if col = 79 then 0 else col + 1)
  else col

/-- The row after teletype of `c` at (row, col) (R315). -/
def teletypeRow (c : Byte) (row col : Nat) : Nat := if teletypeDown c col then (if row = 24 then 24 else row + 1) else row

/-- Cell (r, k) after the glyph of `c`, if it has one, is written at the cursor (R315). -/
def State.glyphCell (s : State) (c : Byte) (r k : Nat) : TextCell :=
  if isGlyph c ∧ r = s.bios.curRow.toNat ∧ k = s.bios.curCol.toNat then (c, s.bios.attr) else s.readCell r k

/-- Cell (r, k) of the screen after teletype of `c` (R315): the whole screen is up one row when the cursor
went down from row 24. -/
def State.teletypeCell (s : State) (c : Byte) (r k : Nat) : TextCell :=
  if teletypeDown c s.bios.curCol.toNat ∧ s.bios.curRow.toNat = 24 then
    (if r < 24 then s.glyphCell c (r + 1) k else (0x20, s.bios.attr))
  else s.glyphCell c r k

end Sys2Proof.Machine
end

