-- ==== Sys2Proof/Certificates/Slice0/Obligations.lean ====
section
/-! DEFINITION. The statements for the provers: what the numbered rules of spec/ say an instruction or the
machine does. `exec i s` is about a state whose IP is already past the instruction (log entry 13). -/

open Sys2Proof Sys2Proof.Machine

/-! ## Encoding and decoding -/

/-- Decoding the encoding of a well-formed instruction gives it back and leaves the bytes after it (R82, R83,
R86, R88, R94, R95). Well-formed leaves out xchgAx .ax only, whose word 0x90 is the row NOP (log entry 29). -/
def Obligations.DecodeOfEncodeIsIdentity : Prop :=
  ∀ (i : Instr) (rest : List Byte), i.WellFormed → decode (encode i ++ rest) = .ok (i, rest)

/-- Every word the decoder reads has one encoding, the bytes it was read from, and a well-formed term (R88,
R98). -/
def Obligations.EncodeOfDecodeIsIdentity : Prop :=
  ∀ (b0 b1 b2 : Byte) (i : Instr), decodeBytes b0 b1 b2 = some i →
    i.WellFormed ∧ encode i = [b0, b1, b2].take i.length

/-- The decoder refuses exactly the 140 bytes that R88 marks invalid, whatever follows them (R88, R92). Rests on
the spec's decision D21. The six extension opcodes are read; whether they are enabled is their meaning's check
(log entry 15). -/
def Obligations.DecodeRefusesExactlyTheDashBytes : Prop :=
  dashBytes.length = 140 ∧
  ∀ b0 b1 b2 : Byte, decodeBytes b0 b1 b2 = none ↔ b0.toNat ∈ dashBytes

/-- Words written out from the spec's encodings decode to the instructions they stand for (R82, R88). -/
def Obligations.SampleWordsDecode : Prop :=
  decode [0xB8, 0x34, 0x12] = .ok (.movR16Imm .ax 0x1234, []) ∧
  decode [0xB4, 0xAB] = .ok (.movR8Imm .ah 0xAB, []) ∧
  decode [0x05, 0xFF, 0x00] = .ok (.addAx 0x00FF, []) ∧
  decode [0xA3, 0x00, 0x05] = .ok (.movMoffsAx 0x0500, []) ∧
  decode [0x5C] = .ok (.popR16 .sp, []) ∧
  decode [0x7C, 0x02] = .ok (.jl 0x02, []) ∧
  decode [0xE8, 0xFD, 0xFF] = .ok (.call 0xFFFD, []) ∧
  decode [0xCD, 0x80] = .ok (.int 0x80, []) ∧
  decode [0xFB] = .ok (.sti, []) ∧
  decode [0x26, 0x90] = .ok (.segEs, [0x90])

/-! ## The step -/

/-- When the bytes at CS:IP decode to an instruction that is no prefix, the step is exec of it on the state with
the prefix state cleared and IP past its bytes; around exec a step draws the cycle counter and nothing else
(R112, R122; log entries 8 and 13). The composition of a step from exec, and the cycle counter as a free value,
are the model's form (log entries 8, 9, 13, 14). -/
def Obligations.StepRunsTheDecodedInstruction : Prop :=
  ∀ (s : State) (i : Instr), s.hung = false → s.halted = false →
    decodeBytes (s.memRead8 (lin s.cs s.ip)) (s.memRead8 (lin s.cs (s.ip + 1))) (s.memRead8 (lin s.cs (s.ip + 2))) =
      some i →
    i.toPrefix = none →
    StepEnds
      (exec i { s with segOvr := none, rep := false, repne := false, ip := s.ip + BitVec.ofNat 16 i.length })
      (step s)

/-- The same after any run of prefixes shorter than the code segment: each is recorded in order, and IP is past
them all (R112, R115). Rests on the spec's decision D26 and on log entries 8, 9, 13, 14. -/
def Obligations.StepRunsThePrefixedInstruction : Prop :=
  ∀ (s : State) (ps : List Prefix) (i : Instr), s.hung = false → s.halted = false → ps.length < 65536 →
    BeginsWithPrefixes s ps →
    decodeBytes (s.memRead8 (lin s.cs (s.ip + BitVec.ofNat 16 ps.length)))
      (s.memRead8 (lin s.cs (s.ip + BitVec.ofNat 16 ps.length + 1)))
      (s.memRead8 (lin s.cs (s.ip + BitVec.ofNat 16 ps.length + 2))) = some i →
    i.toPrefix = none →
    StepEnds
      (exec i { ps.foldl State.recordPrefix s.clearPrefixes with
        ip := s.ip + BitVec.ofNat 16 (ps.length + i.length) })
      (step s)

/-- Recording prefixes one after another: the last segment override wins, REP and REPNE are independent, LOCK
records nothing, and nothing else changes (R115). Rests on the spec's decision D26. -/
def Obligations.LastSegmentOverrideWins : Prop :=
  ∀ (ps : List Prefix) (s : State),
    ps.foldl State.recordPrefix s =
      { s with
        segOvr := (ps.filterMap segmentOf).getLast?.or s.segOvr
        rep := s.rep || decide (Prefix.rep ∈ ps)
        repne := s.repne || decide (Prefix.repne ∈ ps) }

/-- A step whose first byte after the prefixes is marked invalid ends with InvalidOpcode for that byte and its
linear address (R117); where the parameter MODRM_OPCODES names the byte the model refuses it (R140; log entry
16). That a byte in MODRM_OPCODES is refused by name is the model's choice (D22, log entry 16). -/
def Obligations.InvalidByteEndsTheStep : Prop :=
  ∀ (s : State) (ps : List Prefix), s.hung = false → s.halted = false → ps.length < 65536 →
    BeginsWithPrefixes s ps →
    (s.memRead8 (lin s.cs (s.ip + BitVec.ofNat 16 ps.length))).toNat ∈ dashBytes →
    let op := s.memRead8 (lin s.cs (s.ip + BitVec.ofNat 16 ps.length))
    let addr := lin s.cs (s.ip + BitVec.ofNat 16 ps.length)
    (op ∉ s.params.modrmOpcodes → step s = .fault (.invalidOpcode op addr)) ∧
    (op ∈ s.params.modrmOpcodes → step s = .refused (.modrmOpcodeWithoutRule op addr))

/-- The prefix loop never ends exactly when all 65536 bytes of the code segment are prefixes: the step then
hangs and no run from it ever ends; else the loop stops at the first byte that is no prefix, and the step runs
the opcode there, on the state with the prefixes before it recorded in order and IP past them (R115, R116; log
entry 11). The other hang, of DOS string output (R332), is inside the rule of INT and no matter of this
statement. Rests on R116, which the spec marks derived (D28). The hang is the field hung, set and then kept for
ever (log entry 11). -/
def Obligations.EndlessPrefixesHang : Prop :=
  ∀ s : State, s.hung = false → s.halted = false →
    ((∀ o : Word, (prefixOfByte (s.memRead8 (lin s.cs o))).isSome) →
      step s = .next { s with hung := true } ∧ ∀ n : Nat, run n { s with hung := true } = .next { s with hung := true }) ∧
    ((∃ o : Word, prefixOfByte (s.memRead8 (lin s.cs o)) = none) →
      ∃ ps : List Prefix, ps.length < 65536 ∧ BeginsWithPrefixes s ps ∧
        prefixOfByte (s.memRead8 (lin s.cs (s.ip + BitVec.ofNat 16 ps.length))) = none ∧
        step s = runOpcode { ps.foldl State.recordPrefix s.clearPrefixes with ip := s.ip + BitVec.ofNat 16 ps.length })

/-! ## Reset -/

/-- At reset IP = 0x7C00 (R40). -/
def Obligations.ResetEntersAtBootOffset : Prop := State.reset.ip = 0x7C00

/-- What reset leaves in every field but IP, which ResetEntersAtBootOffset states: CS and the hidden state as the
spec decides (R41, R45), IF clear (R44), an empty keyboard ring (R301), and the values this model names for the
open parameters and for its own fields (log entries 1 to 6, 8, 9, 11, 21). General registers and DS, ES, SS 0,
SP 0xFFFE, FLAGS 0x0002, memory reading 0x00, video mode, cursor, shape, page and shift byte 0, both ring indices
0, cycles 0, RO_WORD_POLICY per_byte, LOADER_RO_POLICY honour, KBD_CAP 16, DISK_GEOMETRY 0, drawCount 0 and hung
clear are DESIGN CHOICE; attr 0x07, TEXT_BASE 0xB8000, RO_PAGES empty, EXT_ACC_ALU empty, MODRM_OPCODES empty,
PUSH_SP_VALUE old, IVT_NULL_IGNORED true and DOS_INPUT_EMPTY echo_nul are the spec's defaults. -/
def Obligations.ResetLeavesTheNamedValues : Prop :=
  State.reset.cs = 0x0000 ∧ State.reset.halted = false ∧ State.reset.segOvr = none ∧ State.reset.rep = false ∧
  State.reset.repne = false ∧ State.reset.pend = false ∧ State.reset.pendVec = 0 ∧
  State.reset.flags.getLsbD 9 = false ∧ State.reset.bios.kbd.keys = [] ∧
  (∀ r : Reg16, State.reset.reg16 r = if r = .sp then 0xFFFE else 0x0000) ∧
  State.reset.ds = 0 ∧ State.reset.es = 0 ∧ State.reset.ss = 0 ∧ State.reset.flags = 0x0002 ∧
  (∀ a : Addr, State.reset.memRead8 a = 0x00) ∧ State.reset.cycles = 0 ∧
  State.reset.bios.attr = 0x07 ∧ State.reset.bios.videoMode = 0 ∧ State.reset.bios.curCol = 0 ∧
  State.reset.bios.curRow = 0 ∧ State.reset.bios.curStart = 0 ∧ State.reset.bios.curEnd = 0 ∧
  State.reset.bios.page = 0 ∧ State.reset.bios.shift = 0 ∧ State.reset.bios.kbd.head = 0 ∧
  State.reset.bios.kbd.tail = 0 ∧
  State.reset.params.roPages = 0 ∧ State.reset.params.textBase = 0xB8000 ∧ State.reset.params.pushSpValue = .old ∧
  State.reset.params.ivtNullIgnored = true ∧ State.reset.params.dosInputEmpty = .echoNul ∧
  State.reset.params.modrmOpcodes = [] ∧ State.reset.params.extAdc = false ∧ State.reset.params.extSbb = false ∧
  State.reset.params.extTest = false ∧ State.reset.params.roWordPolicy = .perByte ∧
  State.reset.params.loaderRoPolicy = .honour ∧ State.reset.params.kbdCap = 16 ∧
  State.reset.params.geometry = { ch := 0, cl := 0, dh := 0, dl := 0 } ∧
  State.reset.drawCount = 0 ∧ State.reset.hung = false

/-- The invariant holds at reset. Memory is canonical, the cursor is in rows 0..24 and columns 0..79, and the
keyboard ring is one of KBD_CAP slots. The reset cursor, KBD_CAP and the ring's indices are the model's choice (log
entries 1, 5, 6, 21). -/
def Obligations.ResetMeetsTheInvariant : Prop := State.reset.Inv

/-! ## Rules about the whole machine -/

/-- Every step keeps the invariant: memory canonical, cursor on the screen (R36), at most KBD_CAP pairs in the ring
and its tail index as many slots after its head as there are pairs (R36, R325). A service whose arguments would
put the cursor off the screen has unspecified effect and is refused (log entry 18); what the indices count is log
entry 21. -/
def Obligations.StepKeepsTheInvariant : Prop := ∀ s t : State, s.Inv → step s = .next t → t.Inv

/-- No step writes DS, ES or SS (R26), the pending-interrupt fields (R33), the read-only mask (R64) or any other
launch parameter (R8). Rests on R26 and R33, which the spec marks derived and decided (D33); the parameters as
plain data are log entry 6. -/
def Obligations.StepKeepsSegmentsAndParameters : Prop :=
  ∀ s t : State, step s = .next t →
    t.ds = s.ds ∧ t.es = s.es ∧ t.ss = s.ss ∧ t.pend = s.pend ∧ t.pendVec = s.pendVec ∧ t.params = s.params

/-- HLT halts (R266); only HLT and DOS exit set `halted` and nothing clears it (R31); from a halted state no
step has a transition, and run stops without error (R111). Rests on the spec's decisions D20, D29 and D51; the
fault that answers a step of a halted state is log entry 12. -/
def Obligations.HaltingIsByHltOrDosExitAndFinal : Prop :=
  (∀ s : State, exec .hlt s = .next { s with halted := true }) ∧
  (∀ (i : Instr) (s t : State), exec i s = .next t → s.halted = true → t.halted = true) ∧
  (∀ (i : Instr) (s t : State), exec i s = .next t → s.halted = false → t.halted = true →
    i = .hlt ∨ (i = .int 0x21 ∧ s.ax.extractLsb' 8 8 = 0x4C)) ∧
  (∀ s t : State, s.halted = true → s.hung = false → step s ≠ .next t) ∧
  (∀ (s : State) (n : Nat), s.halted = true → run n s = .next s)

/-- Each general register is written only by the instructions that R24 lists for it. Frame of every instruction:
a register that mayWriteReg does not list for it is as before in every next state of exec. Rests on R24's table,
which the spec marks derived. -/
def Obligations.OnlyListedInstructionsWriteARegister : Prop :=
  ∀ (i : Instr) (s t : State) (r : Reg16), exec i s = .next t → mayWriteReg i r = false → t.reg16 r = s.reg16 r

/-- Each bit of FLAGS, the reserved bits included, is written only by the instructions that R28 to R30 list.
Frame of every instruction: a bit that mayWriteFlagBit does not list for it is as before in every next state of
exec. Rests on R28's table, which the spec marks derived. -/
def Obligations.OnlyListedInstructionsWriteAFlag : Prop :=
  ∀ (i : Instr) (s t : State) (n : Nat), exec i s = .next t → mayWriteFlagBit i n = false →
    t.flags.getLsbD n = s.flags.getLsbD n

/-- Only the instructions that R61 lists as writing memory change any of it. Frame of every instruction that
stores nothing: memory as a whole is unchanged in every next state of exec. -/
def Obligations.OnlyListedInstructionsWriteMemory : Prop :=
  ∀ (i : Instr) (s t : State), exec i s = .next t → mayStore i = false → t.mem = s.mem

/-- What is neither a general register, nor FLAGS, nor memory, which the three statements before this one cover,
is written only by the instructions the spec names: IP beyond the instruction's own bytes by the jumps, JMP,
CALL, RET, LOOP, IRET and INT through the vector table (R25, R282), `halted` by HLT and INT 21h (R31), CS by INT
through the vector table and IRET (R26), the BIOS context by INT 10h, 16h and 21h (R36), the prefix state by
prefixes (R32); the model's own `drawCount` by logical operations, INT 13h and INT 21h, its `hung` by INT 21h (log
entries 9, 11); the rest by none (R26, R33, R34, R64; the step draws cycles). Rests on tables the spec marks
derived. -/
def Obligations.OnlyListedInstructionsWriteOtherState : Prop :=
  ∀ (i : Instr) (s t : State), exec i s = .next t →
    (mayMoveIp i = false → t.ip = s.ip) ∧
    (i ≠ .hlt → i ≠ .int 0x21 → t.halted = s.halted) ∧
    ((∀ n : Byte, n ∉ [0x10, 0x13, 0x16, 0x21] → i ≠ .int n) → i ≠ .iret → t.cs = s.cs) ∧
    (i ≠ .int 0x10 → i ≠ .int 0x16 → i ≠ .int 0x21 → t.bios = s.bios) ∧
    (i.toPrefix = none → t.segOvr = s.segOvr ∧ t.rep = s.rep ∧ t.repne = s.repne) ∧
    (mayDraw i = false → t.drawCount = s.drawCount) ∧
    (i ≠ .int 0x21 → t.hung = s.hung) ∧
    t.ds = s.ds ∧ t.es = s.es ∧ t.ss = s.ss ∧ t.cycles = s.cycles ∧ t.pend = s.pend ∧ t.pendVec = s.pendVec ∧
    t.params = s.params

/-! ## Memory -/

/-- A byte write in a read-only page does nothing; elsewhere the byte reads back and no other byte changes
(R54). -/
def Obligations.ByteWriteThenRead : Prop :=
  ∀ (s : State) (a : Addr) (v : Byte),
    (s.params.roPages.getLsbD (a.toNat / 4096) = true → s.memWrite8 a v = s) ∧
    (s.params.roPages.getLsbD (a.toNat / 4096) = false →
      s.memWrite8 a v = { s with mem := (s.memWrite8 a v).mem } ∧
      ∀ c : Addr, (s.memWrite8 a v).memRead8 c = if c = a then v else s.memRead8 c)

/-- Word accesses are little-endian, each byte address reduced by itself, and a word write is filtered by
RO_WORD_POLICY (R55, R56, R59). Rests on the spec's decisions D1, D3 and D4. -/
def Obligations.WordAccessIsLittleEndian : Prop :=
  ∀ (s : State) (a : Addr) (v : Word),
    s.memWrite16 a v = { s with mem := (s.memWrite16 a v).mem } ∧
    WordStored s.params s.mem (s.memWrite16 a v).mem a v ∧
    (s.memRead16 a).extractLsb' 0 8 = s.memRead8 a ∧ (s.memRead16 a).extractLsb' 8 8 = s.memRead8 (a + 1)

/-- Segment combination is shift-and-add modulo 2^20; two pairs may alias, and the largest sum wraps (R52). -/
def Obligations.SegmentCombinationWraps : Prop :=
  (∀ seg off : Word, (lin seg off).toNat = (seg.toNat * 16 + off.toNat) % 1048576) ∧
  lin 0x1234 0x0010 = lin 0x1235 0x0000 ∧ lin 0xFFFF 0xFFFF = 0x0FFEF

/-! ## Arithmetic and logic -/

/-- ADD and SUB with the accumulator, both widths: encoding, result, all six flags, nothing else (R200, R201,
R206, R207, with R191 and R192). exec answers that next state from every state. The OF and AF expressions are
the spec's decision D16 (log entry 25). -/
def Obligations.AddAndSubImmediateResults : Prop :=
  (∀ (b : Byte) (s : State),
    let a := s.ax.extractLsb' 0 8
    encode (.addAl b) = [0x04, b] ∧
    AlResult s (exec (.addAl b) s) (a + b) (decide (a.toNat + b.toNat > 255))
      (((a ^^^ b ^^^ (a + b)) &&& 0x10) != 0) (((a ^^^ (a + b)) &&& (b ^^^ (a + b)) &&& 0x80) != 0)) ∧
  (∀ (b : Word) (s : State),
    encode (.addAx b) = [0x05, b.extractLsb' 0 8, b.extractLsb' 8 8] ∧
    AxResult s (exec (.addAx b) s) (s.ax + b) (decide (s.ax.toNat + b.toNat > 65535))
      (((s.ax ^^^ b ^^^ (s.ax + b)) &&& 0x10) != 0)
      (((s.ax ^^^ (s.ax + b)) &&& (b ^^^ (s.ax + b)) &&& 0x8000) != 0)) ∧
  (∀ (b : Byte) (s : State),
    let a := s.ax.extractLsb' 0 8
    encode (.subAl b) = [0x2C, b] ∧
    AlResult s (exec (.subAl b) s) (a - b) (decide (a.toNat < b.toNat))
      (((a ^^^ b ^^^ (a - b)) &&& 0x10) != 0) (((a ^^^ b) &&& (a ^^^ (a - b)) &&& 0x80) != 0)) ∧
  (∀ (b : Word) (s : State),
    encode (.subAx b) = [0x2D, b.extractLsb' 0 8, b.extractLsb' 8 8] ∧
    AxResult s (exec (.subAx b) s) (s.ax - b) (decide (s.ax.toNat < b.toNat))
      (((s.ax ^^^ b ^^^ (s.ax - b)) &&& 0x10) != 0)
      (((s.ax ^^^ b) &&& (s.ax ^^^ (s.ax - b)) &&& 0x8000) != 0))

/-- CMP gives the flags of SUB and changes no register (R210, R211). exec answers that next state from every
state. Rests on the spec's decisions D16 and D18 (log entry 25). -/
def Obligations.CompareImmediateResults : Prop :=
  (∀ (b : Byte) (s : State),
    let a := s.ax.extractLsb' 0 8
    encode (.cmpAl b) = [0x3C, b] ∧
    FlagsResult s (exec (.cmpAl b) s) (a - b) (decide (a.toNat < b.toNat))
      (((a ^^^ b ^^^ (a - b)) &&& 0x10) != 0) (((a ^^^ b) &&& (a ^^^ (a - b)) &&& 0x80) != 0)) ∧
  (∀ (b : Word) (s : State),
    encode (.cmpAx b) = [0x3D, b.extractLsb' 0 8, b.extractLsb' 8 8] ∧
    FlagsResult s (exec (.cmpAx b) s) (s.ax - b) (decide (s.ax.toNat < b.toNat))
      (((s.ax ^^^ b ^^^ (s.ax - b)) &&& 0x10) != 0)
      (((s.ax ^^^ b) &&& (s.ax ^^^ (s.ax - b)) &&& 0x8000) != 0))

/-- OR, AND and XOR, both widths: encoding, result, CF = OF = 0, ZF, SF and PF of the result; AF is some bit (a
draw, R193; log entry 7), and the draw is counted. Nothing else changes (R202 to R205, R208, R209). exec answers
that next state from every state. That AF is a draw is the spec's decision D17, its form log entry 7. -/
def Obligations.LogicImmediateResults : Prop :=
  (∀ (b : Byte) (s : State),
    let a := s.ax.extractLsb' 0 8
    let d := { s with drawCount := s.drawCount + 1 }
    encode (.orAl b) = [0x0C, b] ∧ encode (.andAl b) = [0x24, b] ∧ encode (.xorAl b) = [0x34, b] ∧
    (∃ af : Bool, AlResult d (exec (.orAl b) s) (a ||| b) false af false) ∧
    (∃ af : Bool, AlResult d (exec (.andAl b) s) (a &&& b) false af false) ∧
    (∃ af : Bool, AlResult d (exec (.xorAl b) s) (a ^^^ b) false af false)) ∧
  (∀ (b : Word) (s : State),
    let d := { s with drawCount := s.drawCount + 1 }
    encode (.orAx b) = [0x0D, b.extractLsb' 0 8, b.extractLsb' 8 8] ∧
    encode (.andAx b) = [0x25, b.extractLsb' 0 8, b.extractLsb' 8 8] ∧
    encode (.xorAx b) = [0x35, b.extractLsb' 0 8, b.extractLsb' 8 8] ∧
    (∃ af : Bool, AxResult d (exec (.orAx b) s) (s.ax ||| b) false af false) ∧
    (∃ af : Bool, AxResult d (exec (.andAx b) s) (s.ax &&& b) false af false) ∧
    (∃ af : Bool, AxResult d (exec (.xorAx b) s) (s.ax ^^^ b) false af false))

/-- INC and DEC on each of the eight registers: encoding, result, every status flag but CF, which is kept (R212,
R213, with R197). exec answers that next state from every state, for all eight registers. The OF and AF
expressions are the spec's decision D16 (log entry 25). -/
def Obligations.IncrementAndDecrementResults : Prop :=
  ∀ (r : Reg16) (s : State),
    let v := s.reg16 r
    encode (.incR16 r) = [BitVec.ofNat 8 (0x40 + r.code)] ∧ encode (.decR16 r) = [BitVec.ofNat 8 (0x48 + r.code)] ∧
    (∃ f : Word, exec (.incR16 r) s = .next { s.setReg16 r (v + 1) with flags := f } ∧
      StatusBits s.flags f (s.flags.getLsbD 0) (evenOnes ((v + 1).setWidth 8)) (((v ^^^ 1 ^^^ (v + 1)) &&& 0x10) != 0)
        (v + 1 == 0) ((v + 1).getLsbD 15) (((v ^^^ (v + 1)) &&& (1 ^^^ (v + 1)) &&& 0x8000) != 0)) ∧
    (∃ f : Word, exec (.decR16 r) s = .next { s.setReg16 r (v - 1) with flags := f } ∧
      StatusBits s.flags f (s.flags.getLsbD 0) (evenOnes ((v - 1).setWidth 8)) (((v ^^^ 1 ^^^ (v - 1)) &&& 0x10) != 0)
        (v - 1 == 0) ((v - 1).getLsbD 15) (((v ^^^ 1) &&& (v ^^^ (v - 1)) &&& 0x8000) != 0))

/-- ADC, SBB and TEST when EXT_ACC_ALU contains them (R214 to R219, with R193 to R195). exec answers that next
state from every state whose parameters enable the instruction. Rests on the spec's decisions D17 and D18 (log
entries 6, 7). -/
def Obligations.EnabledExtensionResults : Prop :=
  (∀ (b : Byte) (s : State),
    let a := s.ax.extractLsb' 0 8
    let c : Byte := if s.flags.getLsbD 0 then 1 else 0
    (s.params.extAdc = true → AlResult s (exec (.adcAl b) s) (a + b + c) (decide (a.toNat + b.toNat + c.toNat > 255))
      (((a ^^^ b ^^^ (a + b + c)) &&& 0x10) != 0) (((a ^^^ (a + b + c)) &&& (b ^^^ (a + b + c)) &&& 0x80) != 0)) ∧
    (s.params.extSbb = true → AlResult s (exec (.sbbAl b) s) (a - b - c) (decide (a.toNat < b.toNat + c.toNat))
      (((a ^^^ b ^^^ (a - b - c)) &&& 0x10) != 0) (((a ^^^ b) &&& (a ^^^ (a - b - c)) &&& 0x80) != 0)) ∧
    (s.params.extTest = true → ∃ af : Bool,
      FlagsResult { s with drawCount := s.drawCount + 1 } (exec (.testAl b) s) (a &&& b) false af false)) ∧
  (∀ (b : Word) (s : State),
    let a := s.ax
    let c : Word := if s.flags.getLsbD 0 then 1 else 0
    (s.params.extAdc = true → AxResult s (exec (.adcAx b) s) (a + b + c) (decide (a.toNat + b.toNat + c.toNat > 65535))
      (((a ^^^ b ^^^ (a + b + c)) &&& 0x10) != 0) (((a ^^^ (a + b + c)) &&& (b ^^^ (a + b + c)) &&& 0x8000) != 0)) ∧
    (s.params.extSbb = true → AxResult s (exec (.sbbAx b) s) (a - b - c) (decide (a.toNat < b.toNat + c.toNat))
      (((a ^^^ b ^^^ (a - b - c)) &&& 0x10) != 0) (((a ^^^ b) &&& (a ^^^ (a - b - c)) &&& 0x8000) != 0)) ∧
    (s.params.extTest = true → ∃ af : Bool,
      FlagsResult { s with drawCount := s.drawCount + 1 } (exec (.testAx b) s) (a &&& b) false af false))

/-- An extension opcode that EXT_ACC_ALU does not contain is InvalidOpcode, with its byte and the linear address
it was fetched from, which is two or three bytes before IP (R91, R119; log entry 15). Stated for an empty
MODRM_OPCODES. Rests on the spec's decision D18; the place of the check is log entry 15. -/
def Obligations.DisabledExtensionIsInvalidOpcode : Prop :=
  ∀ (b : Byte) (w : Word) (s : State), s.params.modrmOpcodes = [] →
    (s.params.extAdc = false →
      exec (.adcAl b) s = .fault (.invalidOpcode 0x14 (lin s.cs (s.ip - 2))) ∧
      exec (.adcAx w) s = .fault (.invalidOpcode 0x15 (lin s.cs (s.ip - 3)))) ∧
    (s.params.extSbb = false →
      exec (.sbbAl b) s = .fault (.invalidOpcode 0x1C (lin s.cs (s.ip - 2))) ∧
      exec (.sbbAx w) s = .fault (.invalidOpcode 0x1D (lin s.cs (s.ip - 3)))) ∧
    (s.params.extTest = false →
      exec (.testAl b) s = .fault (.invalidOpcode 0xA8 (lin s.cs (s.ip - 2))) ∧
      exec (.testAx w) s = .fault (.invalidOpcode 0xA9 (lin s.cs (s.ip - 3))))

/-- After ADD and SUB, OF says that the signed result does not fit, and AF is the carry out of bit 3 or the
borrow into bit 4 (R191, R192, R198, R220). Rests on the spec's decision D16 (log entry 25). The completion of
ADD and SUB is AddAndSubImmediateResults. -/
def Obligations.OverflowAndAuxFlagsMeanWhatTheySay : Prop :=
  (∀ (b : Byte) (s t : State), exec (.addAl b) s = .next t →
    let a := s.ax.extractLsb' 0 8
    t.flags.getLsbD 11 = decide (a.toInt + b.toInt < -128 ∨ 127 < a.toInt + b.toInt) ∧
    t.flags.getLsbD 4 = decide (a.toNat % 16 + b.toNat % 16 > 15)) ∧
  (∀ (b : Byte) (s t : State), exec (.subAl b) s = .next t →
    let a := s.ax.extractLsb' 0 8
    t.flags.getLsbD 11 = decide (a.toInt - b.toInt < -128 ∨ 127 < a.toInt - b.toInt) ∧
    t.flags.getLsbD 4 = decide (a.toNat % 16 < b.toNat % 16)) ∧
  (∀ (b : Word) (s t : State), exec (.addAx b) s = .next t →
    t.flags.getLsbD 11 = decide (s.ax.toInt + b.toInt < -32768 ∨ 32767 < s.ax.toInt + b.toInt) ∧
    t.flags.getLsbD 4 = decide (s.ax.toNat % 16 + b.toNat % 16 > 15)) ∧
  (∀ (b : Word) (s t : State), exec (.subAx b) s = .next t →
    t.flags.getLsbD 11 = decide (s.ax.toInt - b.toInt < -32768 ∨ 32767 < s.ax.toInt - b.toInt) ∧
    t.flags.getLsbD 4 = decide (s.ax.toNat % 16 < b.toNat % 16))

/-- After CMP a, b the conditional jumps compare a and b: JB, JAE, JBE, JA unsigned, JL, JGE, JLE, JG as signed
values, JE and JNE for equality (R230). Stated for both widths and ten jumps. Rests on the spec's decisions D16
and D18. -/
def Obligations.CompareThenJumpComparesOperands : Prop :=
  ∀ (d : Byte) (s t : State) (a b : Int) (x y : Nat),
    ((∃ w : Byte, exec (.cmpAl w) s = .next t ∧ a = (s.ax.extractLsb' 0 8).toInt ∧ b = w.toInt ∧
        x = (s.ax.extractLsb' 0 8).toNat ∧ y = w.toNat) ∨
     (∃ w : Word, exec (.cmpAx w) s = .next t ∧ a = s.ax.toInt ∧ b = w.toInt ∧ x = s.ax.toNat ∧ y = w.toNat)) →
    let jumped : State := { t with ip := t.ip + d.signExtend 16 }
    exec (.jb d) t = .next (if x < y then jumped else t) ∧
    exec (.jae d) t = .next (if y ≤ x then jumped else t) ∧
    exec (.jbe d) t = .next (if x ≤ y then jumped else t) ∧
    exec (.ja d) t = .next (if y < x then jumped else t) ∧
    exec (.jl d) t = .next (if a < b then jumped else t) ∧
    exec (.jge d) t = .next (if b ≤ a then jumped else t) ∧
    exec (.jle d) t = .next (if a ≤ b then jumped else t) ∧
    exec (.jg d) t = .next (if b < a then jumped else t) ∧
    exec (.je d) t = .next (if x = y then jumped else t) ∧
    exec (.jne d) t = .next (if x ≠ y then jumped else t)

/-! ## Control transfer -/

/-- The conditional jumps on OF, CF and ZF: opcode, condition, target, nothing else (R232 to R239). exec answers
a next state from every state: IP plus the sign-extended displacement, modulo 2^16, when the condition holds,
and the same state when it does not. -/
def Obligations.JumpsOnOverflowCarryAndZero : Prop :=
  JumpsWhen .jo 0x70 (fun s => s.flags.getLsbD 11 = true) ∧
  JumpsWhen .jno 0x71 (fun s => s.flags.getLsbD 11 = false) ∧
  JumpsWhen .jb 0x72 (fun s => s.flags.getLsbD 0 = true) ∧
  JumpsWhen .jae 0x73 (fun s => s.flags.getLsbD 0 = false) ∧
  JumpsWhen .je 0x74 (fun s => s.flags.getLsbD 6 = true) ∧
  JumpsWhen .jne 0x75 (fun s => s.flags.getLsbD 6 = false) ∧
  JumpsWhen .jbe 0x76 (fun s => s.flags.getLsbD 0 = true ∨ s.flags.getLsbD 6 = true) ∧
  JumpsWhen .ja 0x77 (fun s => s.flags.getLsbD 0 = false ∧ s.flags.getLsbD 6 = false)

/-- The conditional jumps on SF and PF and the signed ones: opcode, condition, target, nothing else (R240 to
R247). exec answers a next state from every state: IP plus the sign-extended displacement, modulo 2^16, when the
condition holds, and the same state when it does not. -/
def Obligations.JumpsOnSignParityAndOrder : Prop :=
  JumpsWhen .js 0x78 (fun s => s.flags.getLsbD 7 = true) ∧
  JumpsWhen .jns 0x79 (fun s => s.flags.getLsbD 7 = false) ∧
  JumpsWhen .jp 0x7A (fun s => s.flags.getLsbD 2 = true) ∧
  JumpsWhen .jnp 0x7B (fun s => s.flags.getLsbD 2 = false) ∧
  JumpsWhen .jl 0x7C (fun s => s.flags.getLsbD 7 ≠ s.flags.getLsbD 11) ∧
  JumpsWhen .jge 0x7D (fun s => s.flags.getLsbD 7 = s.flags.getLsbD 11) ∧
  JumpsWhen .jle 0x7E (fun s => s.flags.getLsbD 6 = true ∨ s.flags.getLsbD 7 ≠ s.flags.getLsbD 11) ∧
  JumpsWhen .jg 0x7F (fun s => s.flags.getLsbD 6 = false ∧ s.flags.getLsbD 7 = s.flags.getLsbD 11)

/-- JMP rel8 and RET: encoding and exact next state (R248, R250). exec answers that next state from every state.
-/
def Obligations.JumpAndReturnResults : Prop :=
  (∀ (d : Byte) (s : State), encode (.jmp d) = [0xEB, d] ∧
    exec (.jmp d) s = .next { s with ip := s.ip + d.signExtend 16 }) ∧
  encode .ret = [0xC3] ∧
  (∀ s : State, exec .ret s = .next { s with ip := s.memRead16 (lin s.ss s.sp), sp := s.sp + 2 })

/-- CALL rel16: encoding, the return offset stored at SS:(SP-2) and at no other byte, SP, IP, nothing else (R249,
R170). exec answers that next state from every state. Stored means as R56 says: the low byte at the address and
the high byte at the next, each unless a page is read-only, which is the byte's own page under RO_WORD_POLICY
per_byte and the low byte's page for both under first_byte. Byte order and filter rest on the spec's decisions D1,
D3 and D4 (log entries 6, 24). -/
def Obligations.CallResult : Prop :=
  ∀ (d : Word) (s : State), encode (.call d) = [0xE8, d.extractLsb' 0 8, d.extractLsb' 8 8] ∧
    ∃ m : Memory, exec (.call d) s = .next { s with sp := s.sp - 2, mem := m, ip := s.ip + d } ∧
      WordStored s.params s.mem m (lin s.ss (s.sp - 2)) s.ip

/-- LOOP rel8: CX goes down by one modulo 2^16 and the jump is taken while it is not zero; no flag (R251). exec
answers that next state from every state. That no flag is written is the spec's decision D25. -/
def Obligations.LoopResult : Prop :=
  ∀ (d : Byte) (s : State), encode (.loop d) = [0xE2, d] ∧
    exec (.loop d) s =
      .next { s with cx := s.cx - 1, ip := if s.cx = 1 then s.ip else s.ip + d.signExtend 16 }

/-- A RET that runs with the stack as a CALL left it goes back to the CALL's return offset and SP (R249, R250,
R253), when the two stack bytes are writable. -/
def Obligations.CallThenReturnComesBack : Prop :=
  ∀ (d x : Word) (s t : State), WordWritable s.params (lin s.ss (s.sp - 2)) → exec (.call d) s = .next t →
    exec .ret { t with ip := x } = .next { t with ip := s.ip, sp := s.sp }

/-! ## Data movement -/

/-- MOV r8, imm8 writes one half and keeps the other; MOV r16, imm16 writes the word (R150, R151, R23). exec
answers that next state from every state. That the byte forms exist is the spec's decision D19. -/
def Obligations.MoveImmediateResults : Prop :=
  (∀ (r : Reg8) (b : Byte) (s : State), encode (.movR8Imm r b) = [BitVec.ofNat 8 (0xB0 + r.code), b] ∧
    exec (.movR8Imm r b) s =
      .next (match r with
        | .al => { s with ax := (s.ax &&& 0xFF00) ||| b.setWidth 16 }
        | .cl => { s with cx := (s.cx &&& 0xFF00) ||| b.setWidth 16 }
        | .dl => { s with dx := (s.dx &&& 0xFF00) ||| b.setWidth 16 }
        | .bl => { s with bx := (s.bx &&& 0xFF00) ||| b.setWidth 16 }
        | .ah => { s with ax := (s.ax &&& 0x00FF) ||| (b.setWidth 16 <<< 8) }
        | .ch => { s with cx := (s.cx &&& 0x00FF) ||| (b.setWidth 16 <<< 8) }
        | .dh => { s with dx := (s.dx &&& 0x00FF) ||| (b.setWidth 16 <<< 8) }
        | .bh => { s with bx := (s.bx &&& 0x00FF) ||| (b.setWidth 16 <<< 8) })) ∧
  (∀ (r : Reg16) (w : Word) (s : State),
    encode (.movR16Imm r w) = [BitVec.ofNat 8 (0xB8 + r.code), w.extractLsb' 0 8, w.extractLsb' 8 8] ∧
    exec (.movR16Imm r w) s =
      .next (match r with
        | .ax => { s with ax := w }
        | .cx => { s with cx := w }
        | .dx => { s with dx := w }
        | .bx => { s with bx := w }
        | .sp => { s with sp := w }
        | .bp => { s with bp := w }
        | .si => { s with si := w }
        | .di => { s with di := w }))

/-- MOV AL/AX, moffs: the byte or word at the override's segment or DS, nothing else (R152, R153). exec answers
that next state from every state. -/
def Obligations.MoveFromMemoryResults : Prop :=
  ∀ (off : Word) (s : State),
    let seg := match s.segOvr with
      | none => s.ds
      | some .es => s.es
      | some .cs => s.cs
      | some .ss => s.ss
      | some .ds => s.ds
    encode (.movAlMoffs off) = [0xA0, off.extractLsb' 0 8, off.extractLsb' 8 8] ∧
    encode (.movAxMoffs off) = [0xA1, off.extractLsb' 0 8, off.extractLsb' 8 8] ∧
    exec (.movAlMoffs off) s =
      .next { s with ax := (s.ax &&& 0xFF00) ||| (s.memRead8 (lin seg off)).setWidth 16 } ∧
    exec (.movAxMoffs off) s = .next { s with ax := s.memRead16 (lin seg off) }

/-- MOV moffs, AL/AX: the byte or word stored at the override's segment or DS, no other byte, nothing else
(R54, R56, R154, R155). exec answers that next state from every state. A byte is stored unless its page is
read-only; a word as R56 says: the low byte at the address and the high byte at the next, each unless a page is
read-only, which is the byte's own page under RO_WORD_POLICY per_byte and the low byte's page for both under
first_byte. Byte order and filter rest on the spec's decisions D1, D3 and D4 (log entries 6, 24). -/
def Obligations.MoveToMemoryResults : Prop :=
  ∀ (off : Word) (s : State),
    let seg := match s.segOvr with
      | none => s.ds
      | some .es => s.es
      | some .cs => s.cs
      | some .ss => s.ss
      | some .ds => s.ds
    encode (.movMoffsAl off) = [0xA2, off.extractLsb' 0 8, off.extractLsb' 8 8] ∧
    encode (.movMoffsAx off) = [0xA3, off.extractLsb' 0 8, off.extractLsb' 8 8] ∧
    (∃ m : Memory, exec (.movMoffsAl off) s = .next { s with mem := m } ∧
      ByteStored s.params s.mem m (lin seg off) (s.ax.extractLsb' 0 8)) ∧
    (∃ m : Memory, exec (.movMoffsAx off) s = .next { s with mem := m } ∧
      WordStored s.params s.mem m (lin seg off) s.ax)

/-- XCHG AX, r16 exchanges the two registers, for every register, and NOP changes nothing (R156, R93). exec
answers that next state from every state. -/
def Obligations.ExchangeResults : Prop :=
  (∀ (r : Reg16) (s : State), encode (.xchgAx r) = [BitVec.ofNat 8 (0x90 + r.code)] ∧
    exec (.xchgAx r) s =
      .next (match r with
        | .ax => s
        | .cx => { s with ax := s.cx, cx := s.ax }
        | .dx => { s with ax := s.dx, dx := s.ax }
        | .bx => { s with ax := s.bx, bx := s.ax }
        | .sp => { s with ax := s.sp, sp := s.ax }
        | .bp => { s with ax := s.bp, bp := s.ax }
        | .si => { s with ax := s.si, si := s.ax }
        | .di => { s with ax := s.di, di := s.ax })) ∧
  encode .nop = [0x90] ∧ ∀ s : State, exec .nop s = .next s

/-! ## The stack -/

/-- PUSH r16 stores the register (for SP the value PUSH_SP_VALUE says) at SS:(SP-2) and at no other byte; POP
r16 loads the word at SS:SP, and POP SP ends with the popped value (R172, R173). exec answers that next state
from every state. Rests on the spec's decisions D23 and D24. -/
def Obligations.PushAndPopRegisterResults : Prop :=
  ∀ (r : Reg16) (s : State),
    let pushed := if r = .sp then (match s.params.pushSpValue with | .old => s.sp | .new => s.sp - 2) else s.reg16 r
    let top := s.memRead16 (lin s.ss s.sp)
    (∃ m : Memory, exec (.pushR16 r) s = .next { s with sp := s.sp - 2, mem := m } ∧
      WordStored s.params s.mem m (lin s.ss (s.sp - 2)) pushed) ∧
    exec (.popR16 r) s = .next (if r = .sp then { s with sp := top } else ({ s with sp := s.sp + 2 } : State).setReg16 r top)

/-- PUSHF stores all 16 bits of FLAGS at SS:(SP-2); POPF loads the word at SS:SP, the flags with a meaning
unchanged, the reserved bits as FLAGS_LOAD makes them (R174, R175; log entry 10). exec answers that next state
from every state. FLAGS_LOAD is the spec's decision D15; its action on the reserved bits is free (log entry 10).
-/
def Obligations.PushAndPopFlagsResults : Prop :=
  ∀ s : State,
    (∃ m : Memory, exec .pushf s = .next { s with sp := s.sp - 2, mem := m } ∧
      WordStored s.params s.mem m (lin s.ss (s.sp - 2)) s.flags) ∧
    (∃ f : Word, exec .popf s = .next { s with sp := s.sp + 2, flags := f } ∧
      LoadsFlags (s.memRead16 (lin s.ss s.sp)) f)

/-- Pushing a register and popping at once gives its value and SP back when the two bytes are writable, and the
old memory word when they lie in read-only pages; SP moves by exactly 2 either way (R178). The read-only
exception is marked derived in R178. -/
def Obligations.PushThenPopRoundTrip : Prop :=
  ∀ (r q : Reg16) (s t u : State), r ≠ .sp → q ≠ .sp → exec (.pushR16 r) s = .next t → exec (.popR16 q) t = .next u →
    t.sp = s.sp - 2 ∧ u.sp = s.sp ∧
    (WordWritable s.params (lin s.ss (s.sp - 2)) → u.reg16 q = s.reg16 r) ∧
    (roAt s.params (lin s.ss (s.sp - 2)) = true → roAt s.params (lin s.ss (s.sp - 2) + 1) = true →
      u.reg16 q = s.memRead16 (lin s.ss (s.sp - 2)))

/-! ## Flag control, prefixes -/

/-- CLC, STC, CLI, STI, CLD and STD each write their one bit of FLAGS and nothing else (R260 to R265). exec
answers that next state from every state. -/
def Obligations.FlagControlResults : Prop :=
  encode .clc = [0xF8] ∧ encode .stc = [0xF9] ∧ encode .cli = [0xFA] ∧ encode .sti = [0xFB] ∧
  encode .cld = [0xFC] ∧ encode .std = [0xFD] ∧
  ∀ s : State,
    (∃ f : Word, exec .clc s = .next { s with flags := f } ∧ OneBit s.flags f 0 false) ∧
    (∃ f : Word, exec .stc s = .next { s with flags := f } ∧ OneBit s.flags f 0 true) ∧
    (∃ f : Word, exec .cli s = .next { s with flags := f } ∧ OneBit s.flags f 9 false) ∧
    (∃ f : Word, exec .sti s = .next { s with flags := f } ∧ OneBit s.flags f 9 true) ∧
    (∃ f : Word, exec .cld s = .next { s with flags := f } ∧ OneBit s.flags f 10 false) ∧
    (∃ f : Word, exec .std s = .next { s with flags := f } ∧ OneBit s.flags f 10 true)

/-- The seven prefixes: byte and what each records; LOCK records nothing (R94, R115). exec answers that next
state from every state. A prefix row as a meaning of its own is the model's form (log entry 13); R115 is the
spec's decision D26. -/
def Obligations.PrefixResults : Prop :=
  encode .segEs = [0x26] ∧ encode .segCs = [0x2E] ∧ encode .segSs = [0x36] ∧ encode .segDs = [0x3E] ∧
  encode .lock = [0xF0] ∧ encode .repne = [0xF2] ∧ encode .rep = [0xF3] ∧
  ∀ s : State,
    exec .segEs s = .next { s with segOvr := some .es } ∧ exec .segCs s = .next { s with segOvr := some .cs } ∧
    exec .segSs s = .next { s with segOvr := some .ss } ∧ exec .segDs s = .next { s with segOvr := some .ds } ∧
    exec .lock s = .next s ∧ exec .repne s = .next { s with repne := true } ∧ exec .rep s = .next { s with rep := true }

/-! ## Software interrupts -/

/-- INT n through the IVT: FLAGS, CS and IP pushed in this order, IF and TF cleared after the push, IP and CS
from the entry at linear 4n as memory then holds it; nothing else (R170, R280, R283). exec answers that next state
for every vector that is not intercepted (R282, the spec's decision D38) and whose entry is not ignored, which is
R284's reading of a missing entry as four zero bytes (the spec's decision D39; IVT_NULL_IGNORED, log entry 6). That
the entry is read after the pushes is the order of R280's states. Stored means as R56 says: the low byte at the
address and the high byte at the next, each unless a page is read-only, which is the byte's own page under
RO_WORD_POLICY per_byte and the low byte's page for both under first_byte. Byte order and filter rest on the
spec's decisions D1, D3 and D4 (log entries 6, 24). -/
def Obligations.InterruptEntersThroughTheVectorTable : Prop :=
  ∀ (n : Byte) (s : State), n ∉ [0x10, 0x13, 0x16, 0x21] →
    (s.params.ivtNullIgnored = false ∨ s.memRead16 (BitVec.ofNat 20 (4 * n.toNat)) ≠ 0 ∨
      s.memRead16 (BitVec.ofNat 20 (4 * n.toNat + 2)) ≠ 0) →
    ∃ (m1 m2 m3 : Memory) (f : Word),
      exec (.int n) s = .next { s with
        sp := s.sp - 6
        mem := m3
        flags := f
        ip := Memory.read16 m3 (BitVec.ofNat 20 (4 * n.toNat))
        cs := Memory.read16 m3 (BitVec.ofNat 20 (4 * n.toNat + 2)) } ∧
      WordStored s.params s.mem m1 (lin s.ss (s.sp - 2)) s.flags ∧
      WordStored s.params m1 m2 (lin s.ss (s.sp - 4)) s.cs ∧
      WordStored s.params m2 m3 (lin s.ss (s.sp - 6)) s.ip ∧
      ∀ k : Nat, f.getLsbD k = if k = 8 ∨ k = 9 then false else s.flags.getLsbD k

/-- INT n through an all-zero entry changes nothing when IVT_NULL_IGNORED holds (R284). Rests on the spec's
decision D39. -/
def Obligations.InterruptThroughNullEntryIsIgnored : Prop :=
  ∀ (n : Byte) (s : State), n ∉ [0x10, 0x13, 0x16, 0x21] → s.params.ivtNullIgnored = true →
    s.memRead16 (BitVec.ofNat 20 (4 * n.toNat)) = 0 → s.memRead16 (BitVec.ofNat 20 (4 * n.toNat + 2)) = 0 →
    exec (.int n) s = .next s

/-- IRET pops IP, CS and FLAGS in this order; the flags with a meaning are the popped ones (R285; log entry 10).
exec answers that next state from every state. FLAGS_LOAD is the spec's decision D15; its action on the reserved
bits is free. -/
def Obligations.InterruptReturnRestores : Prop :=
  ∀ s : State, encode .iret = [0xCF] ∧
    ∃ f : Word, exec .iret s = .next { s with
        ip := s.memRead16 (lin s.ss s.sp)
        cs := s.memRead16 (lin s.ss (s.sp + 2))
        flags := f
        sp := s.sp + 6 } ∧
      LoadsFlags (s.memRead16 (lin s.ss (s.sp + 4))) f

/-- An IRET that runs with the stack as an INT through the IVT left it restores IP, CS, SP and every flag with a
meaning, IF and TF among them (R286, R358), when the six stack bytes are writable. Rests on R286, which the spec
marks derived (D40), and on log entry 10. -/
def Obligations.InterruptThenReturnComesBack : Prop :=
  ∀ (n : Byte) (x y : Word) (s t : State), n ∉ [0x10, 0x13, 0x16, 0x21] →
    (s.params.ivtNullIgnored = false ∨ s.memRead16 (BitVec.ofNat 20 (4 * n.toNat)) ≠ 0 ∨
      s.memRead16 (BitVec.ofNat 20 (4 * n.toNat + 2)) ≠ 0) →
    WordWritable s.params (lin s.ss (s.sp - 2)) → WordWritable s.params (lin s.ss (s.sp - 4)) →
    WordWritable s.params (lin s.ss (s.sp - 6)) →
    exec (.int n) s = .next t →
    ∃ u : State, exec .iret { t with ip := x, cs := y } = .next u ∧
      u.ip = s.ip ∧ u.cs = s.cs ∧ u.sp = s.sp ∧ LoadsFlags s.flags u.flags

/-! ## Services -/

/-- What an intercepted INT leaves alone, whichever service runs: SP, BX, BP, SI, DI, IP, every segment
register, the prefix and hidden state, the launch parameters, every FLAGS bit but CF and ZF, and every byte of
memory outside the text buffer (R282, R300); a function number that is not listed does nothing at all (R302).
Rests on the spec's decisions D38 and D41. -/
def Obligations.ServicesKeepTheRest : Prop :=
  (∀ (n : Byte) (s t : State), n ∈ [0x10, 0x13, 0x16, 0x21] → exec (.int n) s = .next t →
    t.sp = s.sp ∧ t.bx = s.bx ∧ t.bp = s.bp ∧ t.si = s.si ∧ t.di = s.di ∧ t.ip = s.ip ∧ t.cs = s.cs ∧ t.ds = s.ds ∧
    t.es = s.es ∧ t.ss = s.ss ∧ t.segOvr = s.segOvr ∧ t.rep = s.rep ∧ t.repne = s.repne ∧ t.pend = s.pend ∧
    t.pendVec = s.pendVec ∧ t.cycles = s.cycles ∧ t.params = s.params ∧
    (∀ k : Nat, k ≠ 0 → k ≠ 6 → t.flags.getLsbD k = s.flags.getLsbD k) ∧
    (∀ c : Addr, inTextBuffer s.params c = false → t.memRead8 c = s.memRead8 c)) ∧
  (∀ (n : Byte) (s : State), n ∈ [0x10, 0x13, 0x16, 0x21] → (s.ax.extractLsb' 8 8).toNat ∉ listedFunctions n →
    exec (.int n) s = .next s)

/-- The keyboard services: read removes the oldest pair, the head index going to the next slot, or gives AX = 0;
check reports emptiness in ZF and removes nothing; the shift query gives the shift byte in AL (R326 to R328).
Rests on the spec's decision D42; what the indices count is log entry 21. -/
def Obligations.KeyboardServiceResults : Prop :=
  ∀ (s : State) (k : Key) (rest : List Key),
    let popped : Ring := { keys := rest, head := (s.bios.kbd.head + 1) % s.params.kbdCap, tail := s.bios.kbd.tail }
    (s.ax.extractLsb' 8 8 = 0x00 →
      (s.bios.kbd.keys = [] → exec (.int 0x16) s = .next { s with ax := 0 }) ∧
      (s.bios.kbd.keys = k :: rest →
        exec (.int 0x16) s =
          .next { s with ax := joinBytes k.scan k.ascii, bios := { s.bios with kbd := popped } })) ∧
    (s.ax.extractLsb' 8 8 = 0x01 →
      (s.bios.kbd.keys = [] → ∃ f, exec (.int 0x16) s = .next { s with ax := 0, flags := f } ∧ OneBit s.flags f 6 true) ∧
      (s.bios.kbd.keys = k :: rest → ∃ f,
        exec (.int 0x16) s = .next { s with ax := joinBytes k.scan k.ascii, flags := f } ∧ OneBit s.flags f 6 false)) ∧
    (s.ax.extractLsb' 8 8 = 0x02 →
      exec (.int 0x16) s = .next { s with ax := (s.ax &&& 0xFF00) ||| s.bios.shift.setWidth 16 })

/-- The disk services report success, CF = 0 and AH = 0, and transfer nothing; AL after a read or a write is
some byte (a draw); the parameters are DISK_GEOMETRY's (R320 to R324; log entry 7). Rests on the spec's decision
D50. -/
def Obligations.DiskServiceResults : Prop :=
  ∀ s : State, ∃ f : Word, OneBit s.flags f 0 false ∧
    (s.ax.extractLsb' 8 8 = 0x00 → exec (.int 0x13) s = .next { s with ax := s.ax &&& 0x00FF, flags := f }) ∧
    (s.ax.extractLsb' 8 8 = 0x02 ∨ s.ax.extractLsb' 8 8 = 0x03 → ∃ al : Byte,
      exec (.int 0x13) s = .next { s with ax := al.setWidth 16, flags := f, drawCount := s.drawCount + 1 }) ∧
    (s.ax.extractLsb' 8 8 = 0x08 →
      exec (.int 0x13) s = .next { s with
        ax := s.ax &&& 0x00FF
        flags := f
        cx := joinBytes s.params.geometry.ch s.params.geometry.cl
        dx := joinBytes s.params.geometry.dh s.params.geometry.dl })

/-- The cursor, page and cell services of INT 10h with the cursor on the screen and, for 09 and 0A, CX = 1 (R305
to R308, R311 to R313). Rests on the spec's decisions D47, D48 and D49; the byte order of a cell write is log
entry 20. -/
def Obligations.VideoCursorAndCellResults : Prop :=
  ∀ s : State,
    let ah := s.ax.extractLsb' 8 8
    let al := s.ax.extractLsb' 0 8
    let row := s.bios.curRow.toNat
    let col := s.bios.curCol.toNat
    let addr := s.params.textBase + BitVec.ofNat 20 (2 * (80 * row + col))
    (ah = 0x01 → exec (.int 0x10) s =
      .next { s with bios := { s.bios with curStart := s.cx.extractLsb' 8 8, curEnd := s.cx.extractLsb' 0 8 } }) ∧
    (ah = 0x02 → (s.dx.extractLsb' 8 8).toNat < 25 → (s.dx.extractLsb' 0 8).toNat < 80 → exec (.int 0x10) s =
      .next { s with bios := { s.bios with curRow := s.dx.extractLsb' 8 8, curCol := s.dx.extractLsb' 0 8 } }) ∧
    (ah = 0x03 → exec (.int 0x10) s =
      .next { s with dx := joinBytes s.bios.curRow s.bios.curCol, cx := joinBytes s.bios.curStart s.bios.curEnd }) ∧
    (ah = 0x05 → exec (.int 0x10) s = .next { s with bios := { s.bios with page := al } }) ∧
    (row < 25 → col < 80 →
      (ah = 0x08 → exec (.int 0x10) s = .next { s with ax := joinBytes (s.memRead8 (addr + 1)) (s.memRead8 addr) }) ∧
      (s.cx = 1 → ah = 0x09 → ∃ m1 m2 : Memory, exec (.int 0x10) s = .next { s with mem := m2 } ∧
        ByteStored s.params s.mem m1 addr al ∧ ByteStored s.params m1 m2 (addr + 1) (s.bx.extractLsb' 0 8)) ∧
      (s.cx = 1 → ah = 0x0A → ∃ m : Memory, exec (.int 0x10) s = .next { s with mem := m } ∧
        ByteStored s.params s.mem m addr al))

/-- Set mode blanks the screen and homes the cursor; the scroll services move a window of the screen by AL lines
and blank the rest of it with BH, computed from the screen before (R304, R309, R310), with a writable text
buffer. Rests on the spec's decisions D45, D47 and D48; that an empty window comes before the range check is log
entry 18. -/
def Obligations.SetModeAndScrollResults : Prop :=
  ∀ s : State, TextWritable s.params →
    let ah := s.ax.extractLsb' 8 8
    let al := (s.ax.extractLsb' 0 8).toNat
    let bh := s.bx.extractLsb' 8 8
    let top := (s.cx.extractLsb' 8 8).toNat
    let left := (s.cx.extractLsb' 0 8).toNat
    let bottom := (s.dx.extractLsb' 8 8).toNat
    let right := (s.dx.extractLsb' 0 8).toNat
    (ah = 0x00 → ∃ m : Memory,
      exec (.int 0x10) s = .next { s with
        mem := m
        bios := { s.bios with videoMode := s.ax.extractLsb' 0 8, curRow := 0, curCol := 0 } } ∧
      ∀ r c : Nat, r < 25 → c < 80 → ({ s with mem := m } : State).readCell r c = (0x20, s.bios.attr)) ∧
    (ah = 0x06 ∨ ah = 0x07 → (bottom < top ∨ right < left) → exec (.int 0x10) s = .next s) ∧
    (ah = 0x06 → top ≤ bottom → left ≤ right → bottom < 25 → right < 80 → ∃ m : Memory,
      exec (.int 0x10) s = .next { s with mem := m } ∧
      ∀ r c : Nat, r < 25 → c < 80 → ({ s with mem := m } : State).readCell r c =
        if top ≤ r ∧ r ≤ bottom ∧ left ≤ c ∧ c ≤ right then
          (if al ≠ 0 ∧ r + al ≤ bottom then s.readCell (r + al) c else (0x20, bh))
        else s.readCell r c) ∧
    (ah = 0x07 → top ≤ bottom → left ≤ right → bottom < 25 → right < 80 → ∃ m : Memory,
      exec (.int 0x10) s = .next { s with mem := m } ∧
      ∀ r c : Nat, r < 25 → c < 80 → ({ s with mem := m } : State).readCell r c =
        if top ≤ r ∧ r ≤ bottom ∧ left ≤ c ∧ c ≤ right then
          (if al ≠ 0 ∧ top + al ≤ r then s.readCell (r - al) c else (0x20, bh))
        else s.readCell r c)

/-- Teletype output of any byte: the cursor and every cell of the screen after it, scrolling included (R314,
R315), with the cursor on the screen and a writable text buffer. Rests on the spec's decision D44. -/
def Obligations.TeletypeResults : Prop :=
  ∀ s : State, s.bios.curRow.toNat < 25 → s.bios.curCol.toNat < 80 → TextWritable s.params →
    s.ax.extractLsb' 8 8 = 0x0E →
    let c := s.ax.extractLsb' 0 8
    ∃ (m : Memory) (row col : Byte),
      exec (.int 0x10) s = .next { s with mem := m, bios := { s.bios with curRow := row, curCol := col } } ∧
      row.toNat = teletypeRow c s.bios.curRow.toNat s.bios.curCol.toNat ∧
      col.toNat = teletypeCol c s.bios.curCol.toNat ∧
      ∀ r k : Nat, r < 25 → k < 80 → ({ s with mem := m } : State).readCell r k = s.teletypeCell c r k

/-- The DOS character services and exit: output prints DL and draws AL; input reads a key, echoes it and draws
AH, an empty ring giving AL = 0 and the echo DOS_INPUT_EMPTY says; exit halts (R330, R331, R333; log entry 7).
Rests on the spec's decisions D51 and D52; the head index of a read is log entry 21. putChar is Teletype of R315 with the cursor on the screen, which
TeletypeResults states. -/
def Obligations.DosCharacterServiceResults : Prop :=
  ∀ (s : State) (k : Key) (rest : List Key), s.bios.curRow.toNat < 25 → s.bios.curCol.toNat < 80 →
    let popped : Ring := { keys := rest, head := (s.bios.kbd.head + 1) % s.params.kbdCap, tail := s.bios.kbd.tail }
    (s.ax.extractLsb' 8 8 = 0x02 → ∃ al : Byte, exec (.int 0x21) s =
      .next { s.putChar (s.dx.extractLsb' 0 8) with
        ax := (s.ax &&& 0xFF00) ||| al.setWidth 16, drawCount := s.drawCount + 1 }) ∧
    (s.ax.extractLsb' 8 8 = 0x01 → s.bios.kbd.keys = k :: rest → ∃ ah : Byte, exec (.int 0x21) s =
      .next { ({ s with bios := { s.bios with kbd := popped } } : State).putChar k.ascii with
        ax := joinBytes ah k.ascii, drawCount := s.drawCount + 1 }) ∧
    (s.ax.extractLsb' 8 8 = 0x01 → s.bios.kbd.keys = [] → s.params.dosInputEmpty = .echoNul →
      ∃ ah : Byte, exec (.int 0x21) s =
        .next { s.putChar 0x00 with ax := joinBytes ah 0x00, drawCount := s.drawCount + 1 }) ∧
    (s.ax.extractLsb' 8 8 = 0x01 → s.bios.kbd.keys = [] → s.params.dosInputEmpty = .noEcho →
      ∃ ah : Byte, exec (.int 0x21) s = .next { s with ax := joinBytes ah 0x00, drawCount := s.drawCount + 1 }) ∧
    (s.ax.extractLsb' 8 8 = 0x4C → exec (.int 0x21) s = .next { s with halted := true })

/-- DOS string output prints the bytes from DS:DX up to the first '$', which is not printed, and draws AL; with
no '$' in the segment it never ends (R332, U28; log entries 7, 11, 19). The bytes lie outside the text buffer,
so that printing does not change them. Rests on the spec's decision D53. -/
def Obligations.DosStringServiceResults : Prop :=
  ∀ s : State, s.bios.curRow.toNat < 25 → s.bios.curCol.toNat < 80 → s.ax.extractLsb' 8 8 = 0x09 →
    (∀ bytes : List Byte, bytes.length < 65536 → 0x24 ∉ bytes →
      (∀ (k : Nat) (h : k < bytes.length), s.memRead8 (lin s.ds (s.dx + BitVec.ofNat 16 k)) = bytes[k]) →
      s.memRead8 (lin s.ds (s.dx + BitVec.ofNat 16 bytes.length)) = 0x24 →
      (∀ k : Nat, k ≤ bytes.length → inTextBuffer s.params (lin s.ds (s.dx + BitVec.ofNat 16 k)) = false) →
      ∃ al : Byte, exec (.int 0x21) s =
        .next { bytes.foldl State.putChar s with
          ax := (s.ax &&& 0xFF00) ||| al.setWidth 16, drawCount := s.drawCount + 1 }) ∧
    ((∀ o : Word, s.memRead8 (lin s.ds o) ≠ 0x24 ∧ inTextBuffer s.params (lin s.ds o) = false) →
      ∃ t : State, exec (.int 0x21) s = .next t ∧ t.hung = true)

/-- Exactly when exec refuses. INT refuses set cursor with DH or DL off the screen; a scroll of a window that is not
empty and reaches off the screen; functions 09 and 0A with CX other than 1; and, with the cursor off the screen,
the services that use it: INT 10h 08, 09, 0A (with CX = 1) and 0E, INT 21h 02, 01 when something is echoed, and 09
when its first byte is not '$' (R303, R312, R313; log entries 17, 18, 28). Another instruction is refused only as
an extension opcode that EXT_ACC_ALU does not contain and MODRM_OPCODES names (R140; log entry 16). One case that
the spec leaves unspecified is no refusal here: DOS string output whose string crosses offset 0xFFFF of DS, which
U27 of 93_implementation_defined.md says to refuse and R332 states with the offset wrapping (D53); that the model
follows R332 is its choice, log entry 19. Rests on the spec's decisions D22, D47, D49 and D53. -/
def Obligations.ServicesRefuseOnlyUnspecifiedCases : Prop :=
  (∀ (n : Byte) (s : State) (e : Refusal),
    let ah := s.ax.extractLsb' 8 8
    let ch := s.cx.extractLsb' 8 8
    let cl := s.cx.extractLsb' 0 8
    let dh := s.dx.extractLsb' 8 8
    let dl := s.dx.extractLsb' 0 8
    exec (.int n) s = .refused e ↔
      (n = 0x10 ∧ ah = 0x02 ∧ (25 ≤ dh.toNat ∨ 80 ≤ dl.toNat) ∧ e = .cursorOutOfRange dh dl) ∨
      (n = 0x10 ∧ (ah = 0x06 ∨ ah = 0x07) ∧ ch.toNat ≤ dh.toNat ∧ cl.toNat ≤ dl.toNat ∧
        (25 ≤ dh.toNat ∨ 80 ≤ dl.toNat) ∧ e = .windowOutOfRange dh dl) ∨
      (n = 0x10 ∧ (ah = 0x09 ∨ ah = 0x0A) ∧ s.cx ≠ 1 ∧ e = .repeatCountNotOne s.cx) ∨
      ((25 ≤ s.bios.curRow.toNat ∨ 80 ≤ s.bios.curCol.toNat) ∧ e = .cursorOutOfRange s.bios.curRow s.bios.curCol ∧
        ((n = 0x10 ∧ (ah = 0x08 ∨ ah = 0x0E ∨ ((ah = 0x09 ∨ ah = 0x0A) ∧ s.cx = 1))) ∨
         (n = 0x21 ∧ (ah = 0x02 ∨ (ah = 0x01 ∧ (s.bios.kbd.keys ≠ [] ∨ s.params.dosInputEmpty = .echoNul)) ∨
           (ah = 0x09 ∧ s.memRead8 (lin s.ds s.dx) ≠ 0x24)))))) ∧
  (∀ (i : Instr) (s : State) (e : Refusal), (∀ n : Byte, i ≠ .int n) →
    (exec i s = .refused e ↔ ∃ (op : Byte) (k : Nat), disabledExtension s.params i = some (op, k) ∧
      op ∈ s.params.modrmOpcodes ∧ e = .modrmOpcodeWithoutRule op (lin s.cs (s.ip - BitVec.ofNat 16 k))))

/-! ## Components beside the instructions -/

/-- The ModR/M decoder, on every byte: register-direct for mod = 11; else the base and index of R132, the
displacement of R133, the sum modulo 2^16 of R134, SS for a BP base (R135), an override always winning (R136).
No admitted opcode invokes the decoder (R140, D22). -/
def Obligations.ModRmDecoderResults : Prop :=
  ∀ (s : State) (m : Byte),
    let md := m.toNat / 64
    let rm := m.toNat % 8
    let b0 := s.memRead8 (lin s.cs s.ip)
    let b1 := s.memRead8 (lin s.cs (s.ip + 1))
    let direct := md = 0 ∧ rm = 6
    let base : Word := match rm with
      | 0 => s.bx + s.si
      | 1 => s.bx + s.di
      | 2 => s.bp + s.si
      | 3 => s.bp + s.di
      | 4 => s.si
      | 5 => s.di
      | 6 => s.bp
      | _ => s.bx
    let seg : Word := match s.segOvr with
      | some .es => s.es
      | some .cs => s.cs
      | some .ss => s.ss
      | some .ds => s.ds
      | none => if (rm = 2 ∨ rm = 3 ∨ rm = 6) ∧ ¬ direct then s.ss else s.ds
    (md = 3 → s.decodeModRM m = (.reg rm, s)) ∧
    (direct → s.decodeModRM m = (.mem seg (joinBytes b1 b0), { s with ip := s.ip + 2 })) ∧
    (md = 0 → rm ≠ 6 → s.decodeModRM m = (.mem seg base, s)) ∧
    (md = 1 → s.decodeModRM m = (.mem seg (base + b0.signExtend 16), { s with ip := s.ip + 1 })) ∧
    (md = 2 → s.decodeModRM m = (.mem seg (base + joinBytes b1 b0), { s with ip := s.ip + 2 }))

/-- The host between steps: a key is appended, the tail index going to the next slot, unless the ring is full, and
then dropped; the shift byte is set; both keep the invariant; the loader puts byte i of a file at u20(address +
i), writable pages or a bypassing loader provided, and refuses a file that is missing or reaches past 2^20 (R36,
R329, R384). Rests on the spec's decisions D7 and D43; what the indices count is log entry 21, a missing file as
none log entry 30. -/
def Obligations.HostInjectionAndLoadResults : Prop :=
  (∀ (s : State) (k : Key),
    let pushed : Ring := {
      keys := s.bios.kbd.keys ++ [k], head := s.bios.kbd.head, tail := (s.bios.kbd.tail + 1) % s.params.kbdCap }
    (s.bios.kbd.keys.length < s.params.kbdCap → s.injectKey k = { s with bios := { s.bios with kbd := pushed } }) ∧
    (s.params.kbdCap ≤ s.bios.kbd.keys.length → s.injectKey k = s) ∧ (s.Inv → (s.injectKey k).Inv)) ∧
  (∀ (s : State) (b : Byte), s.injectShift b = { s with bios := { s.bios with shift := b } } ∧
    (s.Inv → (s.injectShift b).Inv)) ∧
  (∀ (s : State) (addr : Nat) (bytes : List Byte),
    s.loadBinary none addr = .error .fileNotFound ∧
    (0x100000 < addr + bytes.length → addr ≤ 0x100000 → s.loadBinary (some bytes) addr = .error .fileTooLarge) ∧
    (addr + bytes.length ≤ 0x100000 →
      (s.params.loaderRoPolicy = .bypass ∨
        ∀ i : Nat, i < bytes.length → roAt s.params (BitVec.ofNat 20 (addr + i)) = false) →
      ∃ m : Memory, s.loadBinary (some bytes) addr = .ok { s with mem := m } ∧
        (∀ (i : Nat) (h : i < bytes.length), Memory.read8 m (BitVec.ofNat 20 (addr + i)) = bytes[i]) ∧
        ∀ c : Addr, c.toNat < addr ∨ addr + bytes.length ≤ c.toNat → Memory.read8 m c = s.memRead8 c))
end

