-- ==== Sys2Proof/Laws/State.lean ====
section
/-! SUPPORT. One lemma per field per update of the state, so that no proof unfolds a record update. -/

namespace Sys2Proof.Machine

@[simp] theorem State.setFlag_ax (s : State) (n : Flag) (b : Bool) : (s.setFlag n b).ax = s.ax := rfl
@[simp] theorem State.setFlag_cx (s : State) (n : Flag) (b : Bool) : (s.setFlag n b).cx = s.cx := rfl
@[simp] theorem State.setFlag_dx (s : State) (n : Flag) (b : Bool) : (s.setFlag n b).dx = s.dx := rfl
@[simp] theorem State.setFlag_bx (s : State) (n : Flag) (b : Bool) : (s.setFlag n b).bx = s.bx := rfl
@[simp] theorem State.setFlag_sp (s : State) (n : Flag) (b : Bool) : (s.setFlag n b).sp = s.sp := rfl
@[simp] theorem State.setFlag_bp (s : State) (n : Flag) (b : Bool) : (s.setFlag n b).bp = s.bp := rfl
@[simp] theorem State.setFlag_si (s : State) (n : Flag) (b : Bool) : (s.setFlag n b).si = s.si := rfl
@[simp] theorem State.setFlag_di (s : State) (n : Flag) (b : Bool) : (s.setFlag n b).di = s.di := rfl
@[simp] theorem State.setFlag_ip (s : State) (n : Flag) (b : Bool) : (s.setFlag n b).ip = s.ip := rfl
@[simp] theorem State.setFlag_cs (s : State) (n : Flag) (b : Bool) : (s.setFlag n b).cs = s.cs := rfl
@[simp] theorem State.setFlag_ds (s : State) (n : Flag) (b : Bool) : (s.setFlag n b).ds = s.ds := rfl
@[simp] theorem State.setFlag_es (s : State) (n : Flag) (b : Bool) : (s.setFlag n b).es = s.es := rfl
@[simp] theorem State.setFlag_ss (s : State) (n : Flag) (b : Bool) : (s.setFlag n b).ss = s.ss := rfl
@[simp] theorem State.setFlag_flags (s : State) (n : Flag) (b : Bool) : (s.setFlag n b).flags = putFlag s.flags n b := rfl
@[simp] theorem State.setFlag_halted (s : State) (n : Flag) (b : Bool) : (s.setFlag n b).halted = s.halted := rfl
@[simp] theorem State.setFlag_pend (s : State) (n : Flag) (b : Bool) : (s.setFlag n b).pend = s.pend := rfl
@[simp] theorem State.setFlag_pendVec (s : State) (n : Flag) (b : Bool) : (s.setFlag n b).pendVec = s.pendVec := rfl
@[simp] theorem State.setFlag_segOvr (s : State) (n : Flag) (b : Bool) : (s.setFlag n b).segOvr = s.segOvr := rfl
@[simp] theorem State.setFlag_rep (s : State) (n : Flag) (b : Bool) : (s.setFlag n b).rep = s.rep := rfl
@[simp] theorem State.setFlag_repne (s : State) (n : Flag) (b : Bool) : (s.setFlag n b).repne = s.repne := rfl
@[simp] theorem State.setFlag_cycles (s : State) (n : Flag) (b : Bool) : (s.setFlag n b).cycles = s.cycles := rfl
@[simp] theorem State.setFlag_mem (s : State) (n : Flag) (b : Bool) : (s.setFlag n b).mem = s.mem := rfl
@[simp] theorem State.setFlag_bios (s : State) (n : Flag) (b : Bool) : (s.setFlag n b).bios = s.bios := rfl
@[simp] theorem State.setFlag_params (s : State) (n : Flag) (b : Bool) : (s.setFlag n b).params = s.params := rfl
@[simp] theorem State.setFlag_drawCount (s : State) (n : Flag) (b : Bool) : (s.setFlag n b).drawCount = s.drawCount := rfl
@[simp] theorem State.setFlag_hung (s : State) (n : Flag) (b : Bool) : (s.setFlag n b).hung = s.hung := rfl

@[simp] theorem State.memWrite8_ax (s : State) (a : Addr) (v : Byte) : (s.memWrite8 a v).ax = s.ax := rfl
@[simp] theorem State.memWrite8_cx (s : State) (a : Addr) (v : Byte) : (s.memWrite8 a v).cx = s.cx := rfl
@[simp] theorem State.memWrite8_dx (s : State) (a : Addr) (v : Byte) : (s.memWrite8 a v).dx = s.dx := rfl
@[simp] theorem State.memWrite8_bx (s : State) (a : Addr) (v : Byte) : (s.memWrite8 a v).bx = s.bx := rfl
@[simp] theorem State.memWrite8_sp (s : State) (a : Addr) (v : Byte) : (s.memWrite8 a v).sp = s.sp := rfl
@[simp] theorem State.memWrite8_bp (s : State) (a : Addr) (v : Byte) : (s.memWrite8 a v).bp = s.bp := rfl
@[simp] theorem State.memWrite8_si (s : State) (a : Addr) (v : Byte) : (s.memWrite8 a v).si = s.si := rfl
@[simp] theorem State.memWrite8_di (s : State) (a : Addr) (v : Byte) : (s.memWrite8 a v).di = s.di := rfl
@[simp] theorem State.memWrite8_ip (s : State) (a : Addr) (v : Byte) : (s.memWrite8 a v).ip = s.ip := rfl
@[simp] theorem State.memWrite8_cs (s : State) (a : Addr) (v : Byte) : (s.memWrite8 a v).cs = s.cs := rfl
@[simp] theorem State.memWrite8_ds (s : State) (a : Addr) (v : Byte) : (s.memWrite8 a v).ds = s.ds := rfl
@[simp] theorem State.memWrite8_es (s : State) (a : Addr) (v : Byte) : (s.memWrite8 a v).es = s.es := rfl
@[simp] theorem State.memWrite8_ss (s : State) (a : Addr) (v : Byte) : (s.memWrite8 a v).ss = s.ss := rfl
@[simp] theorem State.memWrite8_flags (s : State) (a : Addr) (v : Byte) : (s.memWrite8 a v).flags = s.flags := rfl
@[simp] theorem State.memWrite8_halted (s : State) (a : Addr) (v : Byte) : (s.memWrite8 a v).halted = s.halted := rfl
@[simp] theorem State.memWrite8_pend (s : State) (a : Addr) (v : Byte) : (s.memWrite8 a v).pend = s.pend := rfl
@[simp] theorem State.memWrite8_pendVec (s : State) (a : Addr) (v : Byte) : (s.memWrite8 a v).pendVec = s.pendVec := rfl
@[simp] theorem State.memWrite8_segOvr (s : State) (a : Addr) (v : Byte) : (s.memWrite8 a v).segOvr = s.segOvr := rfl
@[simp] theorem State.memWrite8_rep (s : State) (a : Addr) (v : Byte) : (s.memWrite8 a v).rep = s.rep := rfl
@[simp] theorem State.memWrite8_repne (s : State) (a : Addr) (v : Byte) : (s.memWrite8 a v).repne = s.repne := rfl
@[simp] theorem State.memWrite8_cycles (s : State) (a : Addr) (v : Byte) : (s.memWrite8 a v).cycles = s.cycles := rfl
@[simp] theorem State.memWrite8_mem (s : State) (a : Addr) (v : Byte) : (s.memWrite8 a v).mem = Memory.write8 s.params s.mem a v := rfl
@[simp] theorem State.memWrite8_bios (s : State) (a : Addr) (v : Byte) : (s.memWrite8 a v).bios = s.bios := rfl
@[simp] theorem State.memWrite8_params (s : State) (a : Addr) (v : Byte) : (s.memWrite8 a v).params = s.params := rfl
@[simp] theorem State.memWrite8_drawCount (s : State) (a : Addr) (v : Byte) : (s.memWrite8 a v).drawCount = s.drawCount := rfl
@[simp] theorem State.memWrite8_hung (s : State) (a : Addr) (v : Byte) : (s.memWrite8 a v).hung = s.hung := rfl

@[simp] theorem State.memWrite16_ax (s : State) (a : Addr) (v : Word) : (s.memWrite16 a v).ax = s.ax := rfl
@[simp] theorem State.memWrite16_cx (s : State) (a : Addr) (v : Word) : (s.memWrite16 a v).cx = s.cx := rfl
@[simp] theorem State.memWrite16_dx (s : State) (a : Addr) (v : Word) : (s.memWrite16 a v).dx = s.dx := rfl
@[simp] theorem State.memWrite16_bx (s : State) (a : Addr) (v : Word) : (s.memWrite16 a v).bx = s.bx := rfl
@[simp] theorem State.memWrite16_sp (s : State) (a : Addr) (v : Word) : (s.memWrite16 a v).sp = s.sp := rfl
@[simp] theorem State.memWrite16_bp (s : State) (a : Addr) (v : Word) : (s.memWrite16 a v).bp = s.bp := rfl
@[simp] theorem State.memWrite16_si (s : State) (a : Addr) (v : Word) : (s.memWrite16 a v).si = s.si := rfl
@[simp] theorem State.memWrite16_di (s : State) (a : Addr) (v : Word) : (s.memWrite16 a v).di = s.di := rfl
@[simp] theorem State.memWrite16_ip (s : State) (a : Addr) (v : Word) : (s.memWrite16 a v).ip = s.ip := rfl
@[simp] theorem State.memWrite16_cs (s : State) (a : Addr) (v : Word) : (s.memWrite16 a v).cs = s.cs := rfl
@[simp] theorem State.memWrite16_ds (s : State) (a : Addr) (v : Word) : (s.memWrite16 a v).ds = s.ds := rfl
@[simp] theorem State.memWrite16_es (s : State) (a : Addr) (v : Word) : (s.memWrite16 a v).es = s.es := rfl
@[simp] theorem State.memWrite16_ss (s : State) (a : Addr) (v : Word) : (s.memWrite16 a v).ss = s.ss := rfl
@[simp] theorem State.memWrite16_flags (s : State) (a : Addr) (v : Word) : (s.memWrite16 a v).flags = s.flags := rfl
@[simp] theorem State.memWrite16_halted (s : State) (a : Addr) (v : Word) : (s.memWrite16 a v).halted = s.halted := rfl
@[simp] theorem State.memWrite16_pend (s : State) (a : Addr) (v : Word) : (s.memWrite16 a v).pend = s.pend := rfl
@[simp] theorem State.memWrite16_pendVec (s : State) (a : Addr) (v : Word) : (s.memWrite16 a v).pendVec = s.pendVec := rfl
@[simp] theorem State.memWrite16_segOvr (s : State) (a : Addr) (v : Word) : (s.memWrite16 a v).segOvr = s.segOvr := rfl
@[simp] theorem State.memWrite16_rep (s : State) (a : Addr) (v : Word) : (s.memWrite16 a v).rep = s.rep := rfl
@[simp] theorem State.memWrite16_repne (s : State) (a : Addr) (v : Word) : (s.memWrite16 a v).repne = s.repne := rfl
@[simp] theorem State.memWrite16_cycles (s : State) (a : Addr) (v : Word) : (s.memWrite16 a v).cycles = s.cycles := rfl
@[simp] theorem State.memWrite16_mem (s : State) (a : Addr) (v : Word) : (s.memWrite16 a v).mem = Memory.write16 s.params s.mem a v := rfl
@[simp] theorem State.memWrite16_bios (s : State) (a : Addr) (v : Word) : (s.memWrite16 a v).bios = s.bios := rfl
@[simp] theorem State.memWrite16_params (s : State) (a : Addr) (v : Word) : (s.memWrite16 a v).params = s.params := rfl
@[simp] theorem State.memWrite16_drawCount (s : State) (a : Addr) (v : Word) : (s.memWrite16 a v).drawCount = s.drawCount := rfl
@[simp] theorem State.memWrite16_hung (s : State) (a : Addr) (v : Word) : (s.memWrite16 a v).hung = s.hung := rfl

@[simp] theorem State.memWriteAll_ax (s : State) (ws : List (Addr × Byte)) : (s.memWriteAll ws).ax = s.ax := rfl
@[simp] theorem State.memWriteAll_cx (s : State) (ws : List (Addr × Byte)) : (s.memWriteAll ws).cx = s.cx := rfl
@[simp] theorem State.memWriteAll_dx (s : State) (ws : List (Addr × Byte)) : (s.memWriteAll ws).dx = s.dx := rfl
@[simp] theorem State.memWriteAll_bx (s : State) (ws : List (Addr × Byte)) : (s.memWriteAll ws).bx = s.bx := rfl
@[simp] theorem State.memWriteAll_sp (s : State) (ws : List (Addr × Byte)) : (s.memWriteAll ws).sp = s.sp := rfl
@[simp] theorem State.memWriteAll_bp (s : State) (ws : List (Addr × Byte)) : (s.memWriteAll ws).bp = s.bp := rfl
@[simp] theorem State.memWriteAll_si (s : State) (ws : List (Addr × Byte)) : (s.memWriteAll ws).si = s.si := rfl
@[simp] theorem State.memWriteAll_di (s : State) (ws : List (Addr × Byte)) : (s.memWriteAll ws).di = s.di := rfl
@[simp] theorem State.memWriteAll_ip (s : State) (ws : List (Addr × Byte)) : (s.memWriteAll ws).ip = s.ip := rfl
@[simp] theorem State.memWriteAll_cs (s : State) (ws : List (Addr × Byte)) : (s.memWriteAll ws).cs = s.cs := rfl
@[simp] theorem State.memWriteAll_ds (s : State) (ws : List (Addr × Byte)) : (s.memWriteAll ws).ds = s.ds := rfl
@[simp] theorem State.memWriteAll_es (s : State) (ws : List (Addr × Byte)) : (s.memWriteAll ws).es = s.es := rfl
@[simp] theorem State.memWriteAll_ss (s : State) (ws : List (Addr × Byte)) : (s.memWriteAll ws).ss = s.ss := rfl
@[simp] theorem State.memWriteAll_flags (s : State) (ws : List (Addr × Byte)) : (s.memWriteAll ws).flags = s.flags := rfl
@[simp] theorem State.memWriteAll_halted (s : State) (ws : List (Addr × Byte)) : (s.memWriteAll ws).halted = s.halted := rfl
@[simp] theorem State.memWriteAll_pend (s : State) (ws : List (Addr × Byte)) : (s.memWriteAll ws).pend = s.pend := rfl
@[simp] theorem State.memWriteAll_pendVec (s : State) (ws : List (Addr × Byte)) : (s.memWriteAll ws).pendVec = s.pendVec := rfl
@[simp] theorem State.memWriteAll_segOvr (s : State) (ws : List (Addr × Byte)) : (s.memWriteAll ws).segOvr = s.segOvr := rfl
@[simp] theorem State.memWriteAll_rep (s : State) (ws : List (Addr × Byte)) : (s.memWriteAll ws).rep = s.rep := rfl
@[simp] theorem State.memWriteAll_repne (s : State) (ws : List (Addr × Byte)) : (s.memWriteAll ws).repne = s.repne := rfl
@[simp] theorem State.memWriteAll_cycles (s : State) (ws : List (Addr × Byte)) : (s.memWriteAll ws).cycles = s.cycles := rfl
@[simp] theorem State.memWriteAll_mem (s : State) (ws : List (Addr × Byte)) : (s.memWriteAll ws).mem = Memory.writeAll s.params s.mem ws := rfl
@[simp] theorem State.memWriteAll_bios (s : State) (ws : List (Addr × Byte)) : (s.memWriteAll ws).bios = s.bios := rfl
@[simp] theorem State.memWriteAll_params (s : State) (ws : List (Addr × Byte)) : (s.memWriteAll ws).params = s.params := rfl
@[simp] theorem State.memWriteAll_drawCount (s : State) (ws : List (Addr × Byte)) : (s.memWriteAll ws).drawCount = s.drawCount := rfl
@[simp] theorem State.memWriteAll_hung (s : State) (ws : List (Addr × Byte)) : (s.memWriteAll ws).hung = s.hung := rfl

@[simp] theorem State.advanceIp_ax (s : State) (n : Nat) : (s.advanceIp n).ax = s.ax := rfl
@[simp] theorem State.advanceIp_cx (s : State) (n : Nat) : (s.advanceIp n).cx = s.cx := rfl
@[simp] theorem State.advanceIp_dx (s : State) (n : Nat) : (s.advanceIp n).dx = s.dx := rfl
@[simp] theorem State.advanceIp_bx (s : State) (n : Nat) : (s.advanceIp n).bx = s.bx := rfl
@[simp] theorem State.advanceIp_sp (s : State) (n : Nat) : (s.advanceIp n).sp = s.sp := rfl
@[simp] theorem State.advanceIp_bp (s : State) (n : Nat) : (s.advanceIp n).bp = s.bp := rfl
@[simp] theorem State.advanceIp_si (s : State) (n : Nat) : (s.advanceIp n).si = s.si := rfl
@[simp] theorem State.advanceIp_di (s : State) (n : Nat) : (s.advanceIp n).di = s.di := rfl
@[simp] theorem State.advanceIp_ip (s : State) (n : Nat) : (s.advanceIp n).ip = s.ip + BitVec.ofNat 16 n := rfl
@[simp] theorem State.advanceIp_cs (s : State) (n : Nat) : (s.advanceIp n).cs = s.cs := rfl
@[simp] theorem State.advanceIp_ds (s : State) (n : Nat) : (s.advanceIp n).ds = s.ds := rfl
@[simp] theorem State.advanceIp_es (s : State) (n : Nat) : (s.advanceIp n).es = s.es := rfl
@[simp] theorem State.advanceIp_ss (s : State) (n : Nat) : (s.advanceIp n).ss = s.ss := rfl
@[simp] theorem State.advanceIp_flags (s : State) (n : Nat) : (s.advanceIp n).flags = s.flags := rfl
@[simp] theorem State.advanceIp_halted (s : State) (n : Nat) : (s.advanceIp n).halted = s.halted := rfl
@[simp] theorem State.advanceIp_pend (s : State) (n : Nat) : (s.advanceIp n).pend = s.pend := rfl
@[simp] theorem State.advanceIp_pendVec (s : State) (n : Nat) : (s.advanceIp n).pendVec = s.pendVec := rfl
@[simp] theorem State.advanceIp_segOvr (s : State) (n : Nat) : (s.advanceIp n).segOvr = s.segOvr := rfl
@[simp] theorem State.advanceIp_rep (s : State) (n : Nat) : (s.advanceIp n).rep = s.rep := rfl
@[simp] theorem State.advanceIp_repne (s : State) (n : Nat) : (s.advanceIp n).repne = s.repne := rfl
@[simp] theorem State.advanceIp_cycles (s : State) (n : Nat) : (s.advanceIp n).cycles = s.cycles := rfl
@[simp] theorem State.advanceIp_mem (s : State) (n : Nat) : (s.advanceIp n).mem = s.mem := rfl
@[simp] theorem State.advanceIp_bios (s : State) (n : Nat) : (s.advanceIp n).bios = s.bios := rfl
@[simp] theorem State.advanceIp_params (s : State) (n : Nat) : (s.advanceIp n).params = s.params := rfl
@[simp] theorem State.advanceIp_drawCount (s : State) (n : Nat) : (s.advanceIp n).drawCount = s.drawCount := rfl
@[simp] theorem State.advanceIp_hung (s : State) (n : Nat) : (s.advanceIp n).hung = s.hung := rfl

@[simp] theorem State.clearPrefixes_ax (s : State) : (s.clearPrefixes).ax = s.ax := rfl
@[simp] theorem State.clearPrefixes_cx (s : State) : (s.clearPrefixes).cx = s.cx := rfl
@[simp] theorem State.clearPrefixes_dx (s : State) : (s.clearPrefixes).dx = s.dx := rfl
@[simp] theorem State.clearPrefixes_bx (s : State) : (s.clearPrefixes).bx = s.bx := rfl
@[simp] theorem State.clearPrefixes_sp (s : State) : (s.clearPrefixes).sp = s.sp := rfl
@[simp] theorem State.clearPrefixes_bp (s : State) : (s.clearPrefixes).bp = s.bp := rfl
@[simp] theorem State.clearPrefixes_si (s : State) : (s.clearPrefixes).si = s.si := rfl
@[simp] theorem State.clearPrefixes_di (s : State) : (s.clearPrefixes).di = s.di := rfl
@[simp] theorem State.clearPrefixes_ip (s : State) : (s.clearPrefixes).ip = s.ip := rfl
@[simp] theorem State.clearPrefixes_cs (s : State) : (s.clearPrefixes).cs = s.cs := rfl
@[simp] theorem State.clearPrefixes_ds (s : State) : (s.clearPrefixes).ds = s.ds := rfl
@[simp] theorem State.clearPrefixes_es (s : State) : (s.clearPrefixes).es = s.es := rfl
@[simp] theorem State.clearPrefixes_ss (s : State) : (s.clearPrefixes).ss = s.ss := rfl
@[simp] theorem State.clearPrefixes_flags (s : State) : (s.clearPrefixes).flags = s.flags := rfl
@[simp] theorem State.clearPrefixes_halted (s : State) : (s.clearPrefixes).halted = s.halted := rfl
@[simp] theorem State.clearPrefixes_pend (s : State) : (s.clearPrefixes).pend = s.pend := rfl
@[simp] theorem State.clearPrefixes_pendVec (s : State) : (s.clearPrefixes).pendVec = s.pendVec := rfl
@[simp] theorem State.clearPrefixes_segOvr (s : State) : (s.clearPrefixes).segOvr = none := rfl
@[simp] theorem State.clearPrefixes_rep (s : State) : (s.clearPrefixes).rep = false := rfl
@[simp] theorem State.clearPrefixes_repne (s : State) : (s.clearPrefixes).repne = false := rfl
@[simp] theorem State.clearPrefixes_cycles (s : State) : (s.clearPrefixes).cycles = s.cycles := rfl
@[simp] theorem State.clearPrefixes_mem (s : State) : (s.clearPrefixes).mem = s.mem := rfl
@[simp] theorem State.clearPrefixes_bios (s : State) : (s.clearPrefixes).bios = s.bios := rfl
@[simp] theorem State.clearPrefixes_params (s : State) : (s.clearPrefixes).params = s.params := rfl
@[simp] theorem State.clearPrefixes_drawCount (s : State) : (s.clearPrefixes).drawCount = s.drawCount := rfl
@[simp] theorem State.clearPrefixes_hung (s : State) : (s.clearPrefixes).hung = s.hung := rfl

@[simp] theorem State.hang_ax (s : State) : (s.hang).ax = s.ax := rfl
@[simp] theorem State.hang_cx (s : State) : (s.hang).cx = s.cx := rfl
@[simp] theorem State.hang_dx (s : State) : (s.hang).dx = s.dx := rfl
@[simp] theorem State.hang_bx (s : State) : (s.hang).bx = s.bx := rfl
@[simp] theorem State.hang_sp (s : State) : (s.hang).sp = s.sp := rfl
@[simp] theorem State.hang_bp (s : State) : (s.hang).bp = s.bp := rfl
@[simp] theorem State.hang_si (s : State) : (s.hang).si = s.si := rfl
@[simp] theorem State.hang_di (s : State) : (s.hang).di = s.di := rfl
@[simp] theorem State.hang_ip (s : State) : (s.hang).ip = s.ip := rfl
@[simp] theorem State.hang_cs (s : State) : (s.hang).cs = s.cs := rfl
@[simp] theorem State.hang_ds (s : State) : (s.hang).ds = s.ds := rfl
@[simp] theorem State.hang_es (s : State) : (s.hang).es = s.es := rfl
@[simp] theorem State.hang_ss (s : State) : (s.hang).ss = s.ss := rfl
@[simp] theorem State.hang_flags (s : State) : (s.hang).flags = s.flags := rfl
@[simp] theorem State.hang_halted (s : State) : (s.hang).halted = s.halted := rfl
@[simp] theorem State.hang_pend (s : State) : (s.hang).pend = s.pend := rfl
@[simp] theorem State.hang_pendVec (s : State) : (s.hang).pendVec = s.pendVec := rfl
@[simp] theorem State.hang_segOvr (s : State) : (s.hang).segOvr = s.segOvr := rfl
@[simp] theorem State.hang_rep (s : State) : (s.hang).rep = s.rep := rfl
@[simp] theorem State.hang_repne (s : State) : (s.hang).repne = s.repne := rfl
@[simp] theorem State.hang_cycles (s : State) : (s.hang).cycles = s.cycles := rfl
@[simp] theorem State.hang_mem (s : State) : (s.hang).mem = s.mem := rfl
@[simp] theorem State.hang_bios (s : State) : (s.hang).bios = s.bios := rfl
@[simp] theorem State.hang_params (s : State) : (s.hang).params = s.params := rfl
@[simp] theorem State.hang_drawCount (s : State) : (s.hang).drawCount = s.drawCount := rfl
@[simp] theorem State.hang_hung (s : State) : (s.hang).hung = true := rfl

@[simp] theorem State.countDraw_ax (s : State) : (s.countDraw).ax = s.ax := rfl
@[simp] theorem State.countDraw_cx (s : State) : (s.countDraw).cx = s.cx := rfl
@[simp] theorem State.countDraw_dx (s : State) : (s.countDraw).dx = s.dx := rfl
@[simp] theorem State.countDraw_bx (s : State) : (s.countDraw).bx = s.bx := rfl
@[simp] theorem State.countDraw_sp (s : State) : (s.countDraw).sp = s.sp := rfl
@[simp] theorem State.countDraw_bp (s : State) : (s.countDraw).bp = s.bp := rfl
@[simp] theorem State.countDraw_si (s : State) : (s.countDraw).si = s.si := rfl
@[simp] theorem State.countDraw_di (s : State) : (s.countDraw).di = s.di := rfl
@[simp] theorem State.countDraw_ip (s : State) : (s.countDraw).ip = s.ip := rfl
@[simp] theorem State.countDraw_cs (s : State) : (s.countDraw).cs = s.cs := rfl
@[simp] theorem State.countDraw_ds (s : State) : (s.countDraw).ds = s.ds := rfl
@[simp] theorem State.countDraw_es (s : State) : (s.countDraw).es = s.es := rfl
@[simp] theorem State.countDraw_ss (s : State) : (s.countDraw).ss = s.ss := rfl
@[simp] theorem State.countDraw_flags (s : State) : (s.countDraw).flags = s.flags := rfl
@[simp] theorem State.countDraw_halted (s : State) : (s.countDraw).halted = s.halted := rfl
@[simp] theorem State.countDraw_pend (s : State) : (s.countDraw).pend = s.pend := rfl
@[simp] theorem State.countDraw_pendVec (s : State) : (s.countDraw).pendVec = s.pendVec := rfl
@[simp] theorem State.countDraw_segOvr (s : State) : (s.countDraw).segOvr = s.segOvr := rfl
@[simp] theorem State.countDraw_rep (s : State) : (s.countDraw).rep = s.rep := rfl
@[simp] theorem State.countDraw_repne (s : State) : (s.countDraw).repne = s.repne := rfl
@[simp] theorem State.countDraw_cycles (s : State) : (s.countDraw).cycles = s.cycles := rfl
@[simp] theorem State.countDraw_mem (s : State) : (s.countDraw).mem = s.mem := rfl
@[simp] theorem State.countDraw_bios (s : State) : (s.countDraw).bios = s.bios := rfl
@[simp] theorem State.countDraw_params (s : State) : (s.countDraw).params = s.params := rfl
@[simp] theorem State.countDraw_drawCount (s : State) : (s.countDraw).drawCount = s.drawCount + 1 := rfl
@[simp] theorem State.countDraw_hung (s : State) : (s.countDraw).hung = s.hung := rfl

@[simp] theorem State.drawCycles_ax (s : State) : (s.drawCycles).ax = s.ax := rfl
@[simp] theorem State.drawCycles_cx (s : State) : (s.drawCycles).cx = s.cx := rfl
@[simp] theorem State.drawCycles_dx (s : State) : (s.drawCycles).dx = s.dx := rfl
@[simp] theorem State.drawCycles_bx (s : State) : (s.drawCycles).bx = s.bx := rfl
@[simp] theorem State.drawCycles_sp (s : State) : (s.drawCycles).sp = s.sp := rfl
@[simp] theorem State.drawCycles_bp (s : State) : (s.drawCycles).bp = s.bp := rfl
@[simp] theorem State.drawCycles_si (s : State) : (s.drawCycles).si = s.si := rfl
@[simp] theorem State.drawCycles_di (s : State) : (s.drawCycles).di = s.di := rfl
@[simp] theorem State.drawCycles_ip (s : State) : (s.drawCycles).ip = s.ip := rfl
@[simp] theorem State.drawCycles_cs (s : State) : (s.drawCycles).cs = s.cs := rfl
@[simp] theorem State.drawCycles_ds (s : State) : (s.drawCycles).ds = s.ds := rfl
@[simp] theorem State.drawCycles_es (s : State) : (s.drawCycles).es = s.es := rfl
@[simp] theorem State.drawCycles_ss (s : State) : (s.drawCycles).ss = s.ss := rfl
@[simp] theorem State.drawCycles_flags (s : State) : (s.drawCycles).flags = s.flags := rfl
@[simp] theorem State.drawCycles_halted (s : State) : (s.drawCycles).halted = s.halted := rfl
@[simp] theorem State.drawCycles_pend (s : State) : (s.drawCycles).pend = s.pend := rfl
@[simp] theorem State.drawCycles_pendVec (s : State) : (s.drawCycles).pendVec = s.pendVec := rfl
@[simp] theorem State.drawCycles_segOvr (s : State) : (s.drawCycles).segOvr = s.segOvr := rfl
@[simp] theorem State.drawCycles_rep (s : State) : (s.drawCycles).rep = s.rep := rfl
@[simp] theorem State.drawCycles_repne (s : State) : (s.drawCycles).repne = s.repne := rfl
@[simp] theorem State.drawCycles_cycles (s : State) : (s.drawCycles).cycles = Config.freeCycles s.drawCount := rfl
@[simp] theorem State.drawCycles_mem (s : State) : (s.drawCycles).mem = s.mem := rfl
@[simp] theorem State.drawCycles_bios (s : State) : (s.drawCycles).bios = s.bios := rfl
@[simp] theorem State.drawCycles_params (s : State) : (s.drawCycles).params = s.params := rfl
@[simp] theorem State.drawCycles_drawCount (s : State) : (s.drawCycles).drawCount = s.drawCount + 1 := rfl
@[simp] theorem State.drawCycles_hung (s : State) : (s.drawCycles).hung = s.hung := rfl

@[simp] theorem State.push16_ax (s : State) (v : Word) : (s.push16 v).ax = s.ax := rfl
@[simp] theorem State.push16_cx (s : State) (v : Word) : (s.push16 v).cx = s.cx := rfl
@[simp] theorem State.push16_dx (s : State) (v : Word) : (s.push16 v).dx = s.dx := rfl
@[simp] theorem State.push16_bx (s : State) (v : Word) : (s.push16 v).bx = s.bx := rfl
@[simp] theorem State.push16_sp (s : State) (v : Word) : (s.push16 v).sp = s.sp - 2 := rfl
@[simp] theorem State.push16_bp (s : State) (v : Word) : (s.push16 v).bp = s.bp := rfl
@[simp] theorem State.push16_si (s : State) (v : Word) : (s.push16 v).si = s.si := rfl
@[simp] theorem State.push16_di (s : State) (v : Word) : (s.push16 v).di = s.di := rfl
@[simp] theorem State.push16_ip (s : State) (v : Word) : (s.push16 v).ip = s.ip := rfl
@[simp] theorem State.push16_cs (s : State) (v : Word) : (s.push16 v).cs = s.cs := rfl
@[simp] theorem State.push16_ds (s : State) (v : Word) : (s.push16 v).ds = s.ds := rfl
@[simp] theorem State.push16_es (s : State) (v : Word) : (s.push16 v).es = s.es := rfl
@[simp] theorem State.push16_ss (s : State) (v : Word) : (s.push16 v).ss = s.ss := rfl
@[simp] theorem State.push16_flags (s : State) (v : Word) : (s.push16 v).flags = s.flags := rfl
@[simp] theorem State.push16_halted (s : State) (v : Word) : (s.push16 v).halted = s.halted := rfl
@[simp] theorem State.push16_pend (s : State) (v : Word) : (s.push16 v).pend = s.pend := rfl
@[simp] theorem State.push16_pendVec (s : State) (v : Word) : (s.push16 v).pendVec = s.pendVec := rfl
@[simp] theorem State.push16_segOvr (s : State) (v : Word) : (s.push16 v).segOvr = s.segOvr := rfl
@[simp] theorem State.push16_rep (s : State) (v : Word) : (s.push16 v).rep = s.rep := rfl
@[simp] theorem State.push16_repne (s : State) (v : Word) : (s.push16 v).repne = s.repne := rfl
@[simp] theorem State.push16_cycles (s : State) (v : Word) : (s.push16 v).cycles = s.cycles := rfl
@[simp] theorem State.push16_mem (s : State) (v : Word) : (s.push16 v).mem = Memory.write16 s.params s.mem (lin s.ss (s.sp - 2)) v := rfl
@[simp] theorem State.push16_bios (s : State) (v : Word) : (s.push16 v).bios = s.bios := rfl
@[simp] theorem State.push16_params (s : State) (v : Word) : (s.push16 v).params = s.params := rfl
@[simp] theorem State.push16_drawCount (s : State) (v : Word) : (s.push16 v).drawCount = s.drawCount := rfl
@[simp] theorem State.push16_hung (s : State) (v : Word) : (s.push16 v).hung = s.hung := rfl

@[simp] theorem State.popped_ax (s : State) : (s.popped).ax = s.ax := rfl
@[simp] theorem State.popped_cx (s : State) : (s.popped).cx = s.cx := rfl
@[simp] theorem State.popped_dx (s : State) : (s.popped).dx = s.dx := rfl
@[simp] theorem State.popped_bx (s : State) : (s.popped).bx = s.bx := rfl
@[simp] theorem State.popped_sp (s : State) : (s.popped).sp = s.sp + 2 := rfl
@[simp] theorem State.popped_bp (s : State) : (s.popped).bp = s.bp := rfl
@[simp] theorem State.popped_si (s : State) : (s.popped).si = s.si := rfl
@[simp] theorem State.popped_di (s : State) : (s.popped).di = s.di := rfl
@[simp] theorem State.popped_ip (s : State) : (s.popped).ip = s.ip := rfl
@[simp] theorem State.popped_cs (s : State) : (s.popped).cs = s.cs := rfl
@[simp] theorem State.popped_ds (s : State) : (s.popped).ds = s.ds := rfl
@[simp] theorem State.popped_es (s : State) : (s.popped).es = s.es := rfl
@[simp] theorem State.popped_ss (s : State) : (s.popped).ss = s.ss := rfl
@[simp] theorem State.popped_flags (s : State) : (s.popped).flags = s.flags := rfl
@[simp] theorem State.popped_halted (s : State) : (s.popped).halted = s.halted := rfl
@[simp] theorem State.popped_pend (s : State) : (s.popped).pend = s.pend := rfl
@[simp] theorem State.popped_pendVec (s : State) : (s.popped).pendVec = s.pendVec := rfl
@[simp] theorem State.popped_segOvr (s : State) : (s.popped).segOvr = s.segOvr := rfl
@[simp] theorem State.popped_rep (s : State) : (s.popped).rep = s.rep := rfl
@[simp] theorem State.popped_repne (s : State) : (s.popped).repne = s.repne := rfl
@[simp] theorem State.popped_cycles (s : State) : (s.popped).cycles = s.cycles := rfl
@[simp] theorem State.popped_mem (s : State) : (s.popped).mem = s.mem := rfl
@[simp] theorem State.popped_bios (s : State) : (s.popped).bios = s.bios := rfl
@[simp] theorem State.popped_params (s : State) : (s.popped).params = s.params := rfl
@[simp] theorem State.popped_drawCount (s : State) : (s.popped).drawCount = s.drawCount := rfl
@[simp] theorem State.popped_hung (s : State) : (s.popped).hung = s.hung := rfl

@[simp] theorem State.loadVector_ax (s : State) (n : Byte) : (s.loadVector n).ax = s.ax := rfl
@[simp] theorem State.loadVector_cx (s : State) (n : Byte) : (s.loadVector n).cx = s.cx := rfl
@[simp] theorem State.loadVector_dx (s : State) (n : Byte) : (s.loadVector n).dx = s.dx := rfl
@[simp] theorem State.loadVector_bx (s : State) (n : Byte) : (s.loadVector n).bx = s.bx := rfl
@[simp] theorem State.loadVector_sp (s : State) (n : Byte) : (s.loadVector n).sp = s.sp := rfl
@[simp] theorem State.loadVector_bp (s : State) (n : Byte) : (s.loadVector n).bp = s.bp := rfl
@[simp] theorem State.loadVector_si (s : State) (n : Byte) : (s.loadVector n).si = s.si := rfl
@[simp] theorem State.loadVector_di (s : State) (n : Byte) : (s.loadVector n).di = s.di := rfl
@[simp] theorem State.loadVector_ip (s : State) (n : Byte) : (s.loadVector n).ip = s.memRead16 (ivtAddr n) := rfl
@[simp] theorem State.loadVector_cs (s : State) (n : Byte) : (s.loadVector n).cs = s.memRead16 (ivtAddr n + 2) := rfl
@[simp] theorem State.loadVector_ds (s : State) (n : Byte) : (s.loadVector n).ds = s.ds := rfl
@[simp] theorem State.loadVector_es (s : State) (n : Byte) : (s.loadVector n).es = s.es := rfl
@[simp] theorem State.loadVector_ss (s : State) (n : Byte) : (s.loadVector n).ss = s.ss := rfl
@[simp] theorem State.loadVector_flags (s : State) (n : Byte) : (s.loadVector n).flags = s.flags := rfl
@[simp] theorem State.loadVector_halted (s : State) (n : Byte) : (s.loadVector n).halted = s.halted := rfl
@[simp] theorem State.loadVector_pend (s : State) (n : Byte) : (s.loadVector n).pend = s.pend := rfl
@[simp] theorem State.loadVector_pendVec (s : State) (n : Byte) : (s.loadVector n).pendVec = s.pendVec := rfl
@[simp] theorem State.loadVector_segOvr (s : State) (n : Byte) : (s.loadVector n).segOvr = s.segOvr := rfl
@[simp] theorem State.loadVector_rep (s : State) (n : Byte) : (s.loadVector n).rep = s.rep := rfl
@[simp] theorem State.loadVector_repne (s : State) (n : Byte) : (s.loadVector n).repne = s.repne := rfl
@[simp] theorem State.loadVector_cycles (s : State) (n : Byte) : (s.loadVector n).cycles = s.cycles := rfl
@[simp] theorem State.loadVector_mem (s : State) (n : Byte) : (s.loadVector n).mem = s.mem := rfl
@[simp] theorem State.loadVector_bios (s : State) (n : Byte) : (s.loadVector n).bios = s.bios := rfl
@[simp] theorem State.loadVector_params (s : State) (n : Byte) : (s.loadVector n).params = s.params := rfl
@[simp] theorem State.loadVector_drawCount (s : State) (n : Byte) : (s.loadVector n).drawCount = s.drawCount := rfl
@[simp] theorem State.loadVector_hung (s : State) (n : Byte) : (s.loadVector n).hung = s.hung := rfl

@[simp] theorem State.jumpRel8_ax (s : State) (d : Byte) : (s.jumpRel8 d).ax = s.ax := rfl
@[simp] theorem State.jumpRel8_cx (s : State) (d : Byte) : (s.jumpRel8 d).cx = s.cx := rfl
@[simp] theorem State.jumpRel8_dx (s : State) (d : Byte) : (s.jumpRel8 d).dx = s.dx := rfl
@[simp] theorem State.jumpRel8_bx (s : State) (d : Byte) : (s.jumpRel8 d).bx = s.bx := rfl
@[simp] theorem State.jumpRel8_sp (s : State) (d : Byte) : (s.jumpRel8 d).sp = s.sp := rfl
@[simp] theorem State.jumpRel8_bp (s : State) (d : Byte) : (s.jumpRel8 d).bp = s.bp := rfl
@[simp] theorem State.jumpRel8_si (s : State) (d : Byte) : (s.jumpRel8 d).si = s.si := rfl
@[simp] theorem State.jumpRel8_di (s : State) (d : Byte) : (s.jumpRel8 d).di = s.di := rfl
@[simp] theorem State.jumpRel8_ip (s : State) (d : Byte) : (s.jumpRel8 d).ip = s.ip + sext16 d := rfl
@[simp] theorem State.jumpRel8_cs (s : State) (d : Byte) : (s.jumpRel8 d).cs = s.cs := rfl
@[simp] theorem State.jumpRel8_ds (s : State) (d : Byte) : (s.jumpRel8 d).ds = s.ds := rfl
@[simp] theorem State.jumpRel8_es (s : State) (d : Byte) : (s.jumpRel8 d).es = s.es := rfl
@[simp] theorem State.jumpRel8_ss (s : State) (d : Byte) : (s.jumpRel8 d).ss = s.ss := rfl
@[simp] theorem State.jumpRel8_flags (s : State) (d : Byte) : (s.jumpRel8 d).flags = s.flags := rfl
@[simp] theorem State.jumpRel8_halted (s : State) (d : Byte) : (s.jumpRel8 d).halted = s.halted := rfl
@[simp] theorem State.jumpRel8_pend (s : State) (d : Byte) : (s.jumpRel8 d).pend = s.pend := rfl
@[simp] theorem State.jumpRel8_pendVec (s : State) (d : Byte) : (s.jumpRel8 d).pendVec = s.pendVec := rfl
@[simp] theorem State.jumpRel8_segOvr (s : State) (d : Byte) : (s.jumpRel8 d).segOvr = s.segOvr := rfl
@[simp] theorem State.jumpRel8_rep (s : State) (d : Byte) : (s.jumpRel8 d).rep = s.rep := rfl
@[simp] theorem State.jumpRel8_repne (s : State) (d : Byte) : (s.jumpRel8 d).repne = s.repne := rfl
@[simp] theorem State.jumpRel8_cycles (s : State) (d : Byte) : (s.jumpRel8 d).cycles = s.cycles := rfl
@[simp] theorem State.jumpRel8_mem (s : State) (d : Byte) : (s.jumpRel8 d).mem = s.mem := rfl
@[simp] theorem State.jumpRel8_bios (s : State) (d : Byte) : (s.jumpRel8 d).bios = s.bios := rfl
@[simp] theorem State.jumpRel8_params (s : State) (d : Byte) : (s.jumpRel8 d).params = s.params := rfl
@[simp] theorem State.jumpRel8_drawCount (s : State) (d : Byte) : (s.jumpRel8 d).drawCount = s.drawCount := rfl
@[simp] theorem State.jumpRel8_hung (s : State) (d : Byte) : (s.jumpRel8 d).hung = s.hung := rfl

@[simp] theorem State.putAx_ax (s : State) (r f : Word) : (s.putAx r f).ax = r := rfl
@[simp] theorem State.putAx_cx (s : State) (r f : Word) : (s.putAx r f).cx = s.cx := rfl
@[simp] theorem State.putAx_dx (s : State) (r f : Word) : (s.putAx r f).dx = s.dx := rfl
@[simp] theorem State.putAx_bx (s : State) (r f : Word) : (s.putAx r f).bx = s.bx := rfl
@[simp] theorem State.putAx_sp (s : State) (r f : Word) : (s.putAx r f).sp = s.sp := rfl
@[simp] theorem State.putAx_bp (s : State) (r f : Word) : (s.putAx r f).bp = s.bp := rfl
@[simp] theorem State.putAx_si (s : State) (r f : Word) : (s.putAx r f).si = s.si := rfl
@[simp] theorem State.putAx_di (s : State) (r f : Word) : (s.putAx r f).di = s.di := rfl
@[simp] theorem State.putAx_ip (s : State) (r f : Word) : (s.putAx r f).ip = s.ip := rfl
@[simp] theorem State.putAx_cs (s : State) (r f : Word) : (s.putAx r f).cs = s.cs := rfl
@[simp] theorem State.putAx_ds (s : State) (r f : Word) : (s.putAx r f).ds = s.ds := rfl
@[simp] theorem State.putAx_es (s : State) (r f : Word) : (s.putAx r f).es = s.es := rfl
@[simp] theorem State.putAx_ss (s : State) (r f : Word) : (s.putAx r f).ss = s.ss := rfl
@[simp] theorem State.putAx_flags (s : State) (r f : Word) : (s.putAx r f).flags = f := rfl
@[simp] theorem State.putAx_halted (s : State) (r f : Word) : (s.putAx r f).halted = s.halted := rfl
@[simp] theorem State.putAx_pend (s : State) (r f : Word) : (s.putAx r f).pend = s.pend := rfl
@[simp] theorem State.putAx_pendVec (s : State) (r f : Word) : (s.putAx r f).pendVec = s.pendVec := rfl
@[simp] theorem State.putAx_segOvr (s : State) (r f : Word) : (s.putAx r f).segOvr = s.segOvr := rfl
@[simp] theorem State.putAx_rep (s : State) (r f : Word) : (s.putAx r f).rep = s.rep := rfl
@[simp] theorem State.putAx_repne (s : State) (r f : Word) : (s.putAx r f).repne = s.repne := rfl
@[simp] theorem State.putAx_cycles (s : State) (r f : Word) : (s.putAx r f).cycles = s.cycles := rfl
@[simp] theorem State.putAx_mem (s : State) (r f : Word) : (s.putAx r f).mem = s.mem := rfl
@[simp] theorem State.putAx_bios (s : State) (r f : Word) : (s.putAx r f).bios = s.bios := rfl
@[simp] theorem State.putAx_params (s : State) (r f : Word) : (s.putAx r f).params = s.params := rfl
@[simp] theorem State.putAx_drawCount (s : State) (r f : Word) : (s.putAx r f).drawCount = s.drawCount := rfl
@[simp] theorem State.putAx_hung (s : State) (r f : Word) : (s.putAx r f).hung = s.hung := rfl

@[simp] theorem State.setCursor_ax (s : State) (row col : Byte) : (s.setCursor row col).ax = s.ax := rfl
@[simp] theorem State.setCursor_cx (s : State) (row col : Byte) : (s.setCursor row col).cx = s.cx := rfl
@[simp] theorem State.setCursor_dx (s : State) (row col : Byte) : (s.setCursor row col).dx = s.dx := rfl
@[simp] theorem State.setCursor_bx (s : State) (row col : Byte) : (s.setCursor row col).bx = s.bx := rfl
@[simp] theorem State.setCursor_sp (s : State) (row col : Byte) : (s.setCursor row col).sp = s.sp := rfl
@[simp] theorem State.setCursor_bp (s : State) (row col : Byte) : (s.setCursor row col).bp = s.bp := rfl
@[simp] theorem State.setCursor_si (s : State) (row col : Byte) : (s.setCursor row col).si = s.si := rfl
@[simp] theorem State.setCursor_di (s : State) (row col : Byte) : (s.setCursor row col).di = s.di := rfl
@[simp] theorem State.setCursor_ip (s : State) (row col : Byte) : (s.setCursor row col).ip = s.ip := rfl
@[simp] theorem State.setCursor_cs (s : State) (row col : Byte) : (s.setCursor row col).cs = s.cs := rfl
@[simp] theorem State.setCursor_ds (s : State) (row col : Byte) : (s.setCursor row col).ds = s.ds := rfl
@[simp] theorem State.setCursor_es (s : State) (row col : Byte) : (s.setCursor row col).es = s.es := rfl
@[simp] theorem State.setCursor_ss (s : State) (row col : Byte) : (s.setCursor row col).ss = s.ss := rfl
@[simp] theorem State.setCursor_flags (s : State) (row col : Byte) : (s.setCursor row col).flags = s.flags := rfl
@[simp] theorem State.setCursor_halted (s : State) (row col : Byte) : (s.setCursor row col).halted = s.halted := rfl
@[simp] theorem State.setCursor_pend (s : State) (row col : Byte) : (s.setCursor row col).pend = s.pend := rfl
@[simp] theorem State.setCursor_pendVec (s : State) (row col : Byte) : (s.setCursor row col).pendVec = s.pendVec := rfl
@[simp] theorem State.setCursor_segOvr (s : State) (row col : Byte) : (s.setCursor row col).segOvr = s.segOvr := rfl
@[simp] theorem State.setCursor_rep (s : State) (row col : Byte) : (s.setCursor row col).rep = s.rep := rfl
@[simp] theorem State.setCursor_repne (s : State) (row col : Byte) : (s.setCursor row col).repne = s.repne := rfl
@[simp] theorem State.setCursor_cycles (s : State) (row col : Byte) : (s.setCursor row col).cycles = s.cycles := rfl
@[simp] theorem State.setCursor_mem (s : State) (row col : Byte) : (s.setCursor row col).mem = s.mem := rfl
@[simp] theorem State.setCursor_params (s : State) (row col : Byte) : (s.setCursor row col).params = s.params := rfl
@[simp] theorem State.setCursor_drawCount (s : State) (row col : Byte) : (s.setCursor row col).drawCount = s.drawCount := rfl
@[simp] theorem State.setCursor_hung (s : State) (row col : Byte) : (s.setCursor row col).hung = s.hung := rfl

@[simp] theorem State.setCursor_bios_videoMode (s : State) (row col : Byte) : (s.setCursor row col).bios.videoMode = s.bios.videoMode := rfl
@[simp] theorem State.setCursor_bios_curStart (s : State) (row col : Byte) : (s.setCursor row col).bios.curStart = s.bios.curStart := rfl
@[simp] theorem State.setCursor_bios_curEnd (s : State) (row col : Byte) : (s.setCursor row col).bios.curEnd = s.bios.curEnd := rfl
@[simp] theorem State.setCursor_bios_page (s : State) (row col : Byte) : (s.setCursor row col).bios.page = s.bios.page := rfl
@[simp] theorem State.setCursor_bios_attr (s : State) (row col : Byte) : (s.setCursor row col).bios.attr = s.bios.attr := rfl
@[simp] theorem State.setCursor_bios_kbd (s : State) (row col : Byte) : (s.setCursor row col).bios.kbd = s.bios.kbd := rfl
@[simp] theorem State.setCursor_bios_shift (s : State) (row col : Byte) : (s.setCursor row col).bios.shift = s.bios.shift := rfl
@[simp] theorem State.setCursor_bios_curRow (s : State) (row col : Byte) : (s.setCursor row col).bios.curRow = row := rfl
@[simp] theorem State.setCursor_bios_curCol (s : State) (row col : Byte) : (s.setCursor row col).bios.curCol = col := rfl

@[simp] theorem State.setReg16_ip (s : State) (r : Reg16) (v : Word) : (s.setReg16 r v).ip = s.ip := by cases r <;> rfl
@[simp] theorem State.setReg16_cs (s : State) (r : Reg16) (v : Word) : (s.setReg16 r v).cs = s.cs := by cases r <;> rfl
@[simp] theorem State.setReg16_ds (s : State) (r : Reg16) (v : Word) : (s.setReg16 r v).ds = s.ds := by cases r <;> rfl
@[simp] theorem State.setReg16_es (s : State) (r : Reg16) (v : Word) : (s.setReg16 r v).es = s.es := by cases r <;> rfl
@[simp] theorem State.setReg16_ss (s : State) (r : Reg16) (v : Word) : (s.setReg16 r v).ss = s.ss := by cases r <;> rfl
@[simp] theorem State.setReg16_flags (s : State) (r : Reg16) (v : Word) : (s.setReg16 r v).flags = s.flags := by cases r <;> rfl
@[simp] theorem State.setReg16_halted (s : State) (r : Reg16) (v : Word) : (s.setReg16 r v).halted = s.halted := by cases r <;> rfl
@[simp] theorem State.setReg16_pend (s : State) (r : Reg16) (v : Word) : (s.setReg16 r v).pend = s.pend := by cases r <;> rfl
@[simp] theorem State.setReg16_pendVec (s : State) (r : Reg16) (v : Word) : (s.setReg16 r v).pendVec = s.pendVec := by cases r <;> rfl
@[simp] theorem State.setReg16_segOvr (s : State) (r : Reg16) (v : Word) : (s.setReg16 r v).segOvr = s.segOvr := by cases r <;> rfl
@[simp] theorem State.setReg16_rep (s : State) (r : Reg16) (v : Word) : (s.setReg16 r v).rep = s.rep := by cases r <;> rfl
@[simp] theorem State.setReg16_repne (s : State) (r : Reg16) (v : Word) : (s.setReg16 r v).repne = s.repne := by cases r <;> rfl
@[simp] theorem State.setReg16_cycles (s : State) (r : Reg16) (v : Word) : (s.setReg16 r v).cycles = s.cycles := by cases r <;> rfl
@[simp] theorem State.setReg16_mem (s : State) (r : Reg16) (v : Word) : (s.setReg16 r v).mem = s.mem := by cases r <;> rfl
@[simp] theorem State.setReg16_bios (s : State) (r : Reg16) (v : Word) : (s.setReg16 r v).bios = s.bios := by cases r <;> rfl
@[simp] theorem State.setReg16_params (s : State) (r : Reg16) (v : Word) : (s.setReg16 r v).params = s.params := by cases r <;> rfl
@[simp] theorem State.setReg16_drawCount (s : State) (r : Reg16) (v : Word) : (s.setReg16 r v).drawCount = s.drawCount := by cases r <;> rfl
@[simp] theorem State.setReg16_hung (s : State) (r : Reg16) (v : Word) : (s.setReg16 r v).hung = s.hung := by cases r <;> rfl

@[simp] theorem State.recordPrefix_ax (s : State) (p : Prefix) : (s.recordPrefix p).ax = s.ax := by cases p <;> rfl
@[simp] theorem State.recordPrefix_cx (s : State) (p : Prefix) : (s.recordPrefix p).cx = s.cx := by cases p <;> rfl
@[simp] theorem State.recordPrefix_dx (s : State) (p : Prefix) : (s.recordPrefix p).dx = s.dx := by cases p <;> rfl
@[simp] theorem State.recordPrefix_bx (s : State) (p : Prefix) : (s.recordPrefix p).bx = s.bx := by cases p <;> rfl
@[simp] theorem State.recordPrefix_sp (s : State) (p : Prefix) : (s.recordPrefix p).sp = s.sp := by cases p <;> rfl
@[simp] theorem State.recordPrefix_bp (s : State) (p : Prefix) : (s.recordPrefix p).bp = s.bp := by cases p <;> rfl
@[simp] theorem State.recordPrefix_si (s : State) (p : Prefix) : (s.recordPrefix p).si = s.si := by cases p <;> rfl
@[simp] theorem State.recordPrefix_di (s : State) (p : Prefix) : (s.recordPrefix p).di = s.di := by cases p <;> rfl
@[simp] theorem State.recordPrefix_ip (s : State) (p : Prefix) : (s.recordPrefix p).ip = s.ip := by cases p <;> rfl
@[simp] theorem State.recordPrefix_cs (s : State) (p : Prefix) : (s.recordPrefix p).cs = s.cs := by cases p <;> rfl
@[simp] theorem State.recordPrefix_ds (s : State) (p : Prefix) : (s.recordPrefix p).ds = s.ds := by cases p <;> rfl
@[simp] theorem State.recordPrefix_es (s : State) (p : Prefix) : (s.recordPrefix p).es = s.es := by cases p <;> rfl
@[simp] theorem State.recordPrefix_ss (s : State) (p : Prefix) : (s.recordPrefix p).ss = s.ss := by cases p <;> rfl
@[simp] theorem State.recordPrefix_flags (s : State) (p : Prefix) : (s.recordPrefix p).flags = s.flags := by cases p <;> rfl
@[simp] theorem State.recordPrefix_halted (s : State) (p : Prefix) : (s.recordPrefix p).halted = s.halted := by cases p <;> rfl
@[simp] theorem State.recordPrefix_pend (s : State) (p : Prefix) : (s.recordPrefix p).pend = s.pend := by cases p <;> rfl
@[simp] theorem State.recordPrefix_pendVec (s : State) (p : Prefix) : (s.recordPrefix p).pendVec = s.pendVec := by cases p <;> rfl
@[simp] theorem State.recordPrefix_cycles (s : State) (p : Prefix) : (s.recordPrefix p).cycles = s.cycles := by cases p <;> rfl
@[simp] theorem State.recordPrefix_mem (s : State) (p : Prefix) : (s.recordPrefix p).mem = s.mem := by cases p <;> rfl
@[simp] theorem State.recordPrefix_bios (s : State) (p : Prefix) : (s.recordPrefix p).bios = s.bios := by cases p <;> rfl
@[simp] theorem State.recordPrefix_params (s : State) (p : Prefix) : (s.recordPrefix p).params = s.params := by cases p <;> rfl
@[simp] theorem State.recordPrefix_drawCount (s : State) (p : Prefix) : (s.recordPrefix p).drawCount = s.drawCount := by cases p <;> rfl
@[simp] theorem State.recordPrefix_hung (s : State) (p : Prefix) : (s.recordPrefix p).hung = s.hung := by cases p <;> rfl

@[simp] theorem State.logicFlags_ax {w : Nat} (s : State) (r : BitVec w) : (s.logicFlags r).ax = s.ax := rfl
@[simp] theorem State.logicFlags_cx {w : Nat} (s : State) (r : BitVec w) : (s.logicFlags r).cx = s.cx := rfl
@[simp] theorem State.logicFlags_dx {w : Nat} (s : State) (r : BitVec w) : (s.logicFlags r).dx = s.dx := rfl
@[simp] theorem State.logicFlags_bx {w : Nat} (s : State) (r : BitVec w) : (s.logicFlags r).bx = s.bx := rfl
@[simp] theorem State.logicFlags_sp {w : Nat} (s : State) (r : BitVec w) : (s.logicFlags r).sp = s.sp := rfl
@[simp] theorem State.logicFlags_bp {w : Nat} (s : State) (r : BitVec w) : (s.logicFlags r).bp = s.bp := rfl
@[simp] theorem State.logicFlags_si {w : Nat} (s : State) (r : BitVec w) : (s.logicFlags r).si = s.si := rfl
@[simp] theorem State.logicFlags_di {w : Nat} (s : State) (r : BitVec w) : (s.logicFlags r).di = s.di := rfl
@[simp] theorem State.logicFlags_ip {w : Nat} (s : State) (r : BitVec w) : (s.logicFlags r).ip = s.ip := rfl
@[simp] theorem State.logicFlags_cs {w : Nat} (s : State) (r : BitVec w) : (s.logicFlags r).cs = s.cs := rfl
@[simp] theorem State.logicFlags_ds {w : Nat} (s : State) (r : BitVec w) : (s.logicFlags r).ds = s.ds := rfl
@[simp] theorem State.logicFlags_es {w : Nat} (s : State) (r : BitVec w) : (s.logicFlags r).es = s.es := rfl
@[simp] theorem State.logicFlags_ss {w : Nat} (s : State) (r : BitVec w) : (s.logicFlags r).ss = s.ss := rfl
@[simp] theorem State.logicFlags_halted {w : Nat} (s : State) (r : BitVec w) : (s.logicFlags r).halted = s.halted := rfl
@[simp] theorem State.logicFlags_pend {w : Nat} (s : State) (r : BitVec w) : (s.logicFlags r).pend = s.pend := rfl
@[simp] theorem State.logicFlags_pendVec {w : Nat} (s : State) (r : BitVec w) : (s.logicFlags r).pendVec = s.pendVec := rfl
@[simp] theorem State.logicFlags_segOvr {w : Nat} (s : State) (r : BitVec w) : (s.logicFlags r).segOvr = s.segOvr := rfl
@[simp] theorem State.logicFlags_rep {w : Nat} (s : State) (r : BitVec w) : (s.logicFlags r).rep = s.rep := rfl
@[simp] theorem State.logicFlags_repne {w : Nat} (s : State) (r : BitVec w) : (s.logicFlags r).repne = s.repne := rfl
@[simp] theorem State.logicFlags_cycles {w : Nat} (s : State) (r : BitVec w) : (s.logicFlags r).cycles = s.cycles := rfl
@[simp] theorem State.logicFlags_mem {w : Nat} (s : State) (r : BitVec w) : (s.logicFlags r).mem = s.mem := rfl
@[simp] theorem State.logicFlags_bios {w : Nat} (s : State) (r : BitVec w) : (s.logicFlags r).bios = s.bios := rfl
@[simp] theorem State.logicFlags_params {w : Nat} (s : State) (r : BitVec w) : (s.logicFlags r).params = s.params := rfl
@[simp] theorem State.logicFlags_hung {w : Nat} (s : State) (r : BitVec w) : (s.logicFlags r).hung = s.hung := rfl

/-- Reading a register after a write to a register (R21, R24). -/
theorem State.reg16_setReg16 (s : State) (r q : Reg16) (v : Word) :
    (s.setReg16 r v).reg16 q = if q = r then v else s.reg16 q := by
  cases r <;> cases q <;> rfl

@[simp] theorem State.reg16_setReg16_self (s : State) (r : Reg16) (v : Word) : (s.setReg16 r v).reg16 r = v := by
  cases r <;> rfl

/-- Writing a half of a word gives the half written and keeps the other half (R23). -/
@[simp] theorem lowByte_withLow (w : Word) (v : Byte) : lowByte (withLow w v) = v := by
  apply BitVec.eq_of_getLsbD_eq
  intro i hi
  simp only [lowByte, withLow, BitVec.getLsbD_setWidth, BitVec.getLsbD_or, BitVec.getLsbD_and]
  interval_cases i <;> simp

@[simp] theorem highByte_withLow (w : Word) (v : Byte) : highByte (withLow w v) = highByte w := by
  apply BitVec.eq_of_getLsbD_eq
  intro i hi
  simp only [highByte, withLow, BitVec.getLsbD_setWidth, BitVec.getLsbD_ushiftRight, BitVec.getLsbD_or, BitVec.getLsbD_and]
  interval_cases i <;> simp

@[simp] theorem highByte_withHigh (w : Word) (v : Byte) : highByte (withHigh w v) = v := by
  apply BitVec.eq_of_getLsbD_eq
  intro i hi
  simp only [highByte, withHigh, BitVec.getLsbD_setWidth, BitVec.getLsbD_ushiftRight, BitVec.getLsbD_or,
    BitVec.getLsbD_and, BitVec.getLsbD_shiftLeft]
  interval_cases i <;> simp

@[simp] theorem lowByte_withHigh (w : Word) (v : Byte) : lowByte (withHigh w v) = lowByte w := by
  apply BitVec.eq_of_getLsbD_eq
  intro i hi
  simp only [lowByte, withHigh, BitVec.getLsbD_setWidth, BitVec.getLsbD_or, BitVec.getLsbD_and, BitVec.getLsbD_shiftLeft]
  interval_cases i <;> simp

/-- The halves of a joined word (R9). -/
@[simp] theorem lowByte_joinBytes (hi lo : Byte) : lowByte (joinBytes hi lo) = lo := by
  apply BitVec.eq_of_getLsbD_eq
  intro i h
  simp only [lowByte, joinBytes, BitVec.getLsbD_setWidth, BitVec.getLsbD_or, BitVec.getLsbD_shiftLeft]
  interval_cases i <;> simp

@[simp] theorem highByte_joinBytes (hi lo : Byte) : highByte (joinBytes hi lo) = hi := by
  apply BitVec.eq_of_getLsbD_eq
  intro i h
  simp only [highByte, joinBytes, BitVec.getLsbD_setWidth, BitVec.getLsbD_ushiftRight, BitVec.getLsbD_or,
    BitVec.getLsbD_shiftLeft]
  interval_cases i <;> simp

@[simp] theorem joinBytes_halves (w : Word) : joinBytes (highByte w) (lowByte w) = w := by
  apply BitVec.eq_of_getLsbD_eq
  intro i h
  simp only [highByte, lowByte, joinBytes, BitVec.getLsbD_setWidth, BitVec.getLsbD_ushiftRight, BitVec.getLsbD_or,
    BitVec.getLsbD_shiftLeft]
  interval_cases i <;> simp

/-- Replacing the high half is joining it with the low one (R23). -/
theorem withHigh_eq_joinBytes (w : Word) (v : Byte) : withHigh w v = joinBytes v (lowByte w) := by
  apply BitVec.eq_of_getLsbD_eq
  intro i h
  simp only [withHigh, lowByte, joinBytes, BitVec.getLsbD_setWidth, BitVec.getLsbD_or, BitVec.getLsbD_and,
    BitVec.getLsbD_shiftLeft]
  interval_cases i <;> simp

/-- Drawing AL keeps AH and counts the draw. -/
theorem State.drawReg8_al (s : State) : s.drawReg8 .al =
    { s with ax := (s.ax &&& 0xFF00) ||| (Config.freeByte s.drawCount).setWidth 16, drawCount := s.drawCount + 1 } := rfl

/-- Drawing AH keeps AL and counts the draw. -/
theorem State.drawReg8_ah (s : State) : s.drawReg8 .ah =
    { s with ax := joinBytes (Config.freeByte s.drawCount) (lowByte s.ax), drawCount := s.drawCount + 1 } := by
  rw [← withHigh_eq_joinBytes]
  rfl

end Sys2Proof.Machine
end

