-- ==== Sys2Proof/Laws/Decode.lean ====
section
/-! SUPPORT. Lemmas about the decoder and the encoder, and about the halves of a word as the statements write
them. -/

namespace Sys2Proof.Machine

/-- A property of all 256 bytes, from the numerals. -/
theorem forall_byte {P : Byte → Prop} (h : ∀ n : Nat, n < 256 → P (BitVec.ofNat 8 n)) (b : Byte) : P b := by
  simpa using h b.toNat b.isLt

/-- The decoder reads a prefix exactly where R94 has one, whatever the operand bytes are. -/
theorem prefixOfByte_eq_bind (b0 b1 b2 : Byte) : prefixOfByte b0 = (decodeBytes b0 b1 b2).bind Instr.toPrefix := by
  refine forall_byte (P := fun b0 => prefixOfByte b0 = (decodeBytes b0 b1 b2).bind Instr.toPrefix) ?_ b0
  intro n hn
  interval_cases n <;> rfl

/-- The low byte of a word as a bit field. -/
theorem extract_low (w : Word) : w.extractLsb' 0 8 = lowByte w := by
  unfold lowByte
  ext i hi
  simp

/-- The high byte of a word as a bit field. -/
theorem extract_high (w : Word) : w.extractLsb' 8 8 = highByte w := by
  unfold highByte
  ext i hi
  simp

/-- The bytes of an opcode with a word: low byte first (R86). -/
theorem withWord_eq (op : Byte) (w : Word) : withWord op w = [op, w.extractLsb' 0 8, w.extractLsb' 8 8] := by
  rw [extract_low, extract_high]
  rfl

theorem reg8_al (s : State) : s.reg8 .al = s.ax.extractLsb' 0 8 := (extract_low _).symm
theorem reg8_ah (s : State) : s.reg8 .ah = s.ax.extractLsb' 8 8 := (extract_high _).symm
theorem reg8_cl (s : State) : s.reg8 .cl = s.cx.extractLsb' 0 8 := (extract_low _).symm
theorem reg8_ch (s : State) : s.reg8 .ch = s.cx.extractLsb' 8 8 := (extract_high _).symm
theorem reg8_dl (s : State) : s.reg8 .dl = s.dx.extractLsb' 0 8 := (extract_low _).symm
theorem reg8_dh (s : State) : s.reg8 .dh = s.dx.extractLsb' 8 8 := (extract_high _).symm
theorem reg8_bl (s : State) : s.reg8 .bl = s.bx.extractLsb' 0 8 := (extract_low _).symm
theorem reg8_bh (s : State) : s.reg8 .bh = s.bx.extractLsb' 8 8 := (extract_high _).symm

/-- Decoding an opcode whose operand bytes are all there. -/
theorem decode_ok (op : Byte) (operands rest : List Byte) (i : Instr)
    (h : decodeBytes op ((operands ++ rest).getD 0 0) ((operands ++ rest).getD 1 0) = some i)
    (hl : i.length = operands.length + 1) : decode ((op :: operands) ++ rest) = .ok (i, rest) := by
  show decode (op :: (operands ++ rest)) = _
  unfold decode
  simp only [h]
  simp [hl]

/-- Decoding an opcode with a word operand. -/
theorem decode_ok_word (op : Byte) (w : Word) (rest : List Byte) (f : Word → Instr)
    (hf : ∀ b1 b2, decodeBytes op b1 b2 = some (f (joinBytes b2 b1))) (hl : ∀ w, (f w).length = 3) :
    decode (withWord op w ++ rest) = .ok (f w, rest) := by
  refine decode_ok op [lowByte w, highByte w] rest (f w) ?_ (hl w)
  rw [hf]
  simp

end Sys2Proof.Machine
end

