-- ==== Sys2Proof/Laws/Flags.lean ====
section
/-! SUPPORT. What the flag operations do to every bit of FLAGS: one lemma per operation, in the terms of
Safety.lean. -/

namespace Sys2Proof.Machine

theorem ofNat_two_pow (n : Nat) : BitVec.ofNat 16 (2 ^ n) = BitVec.twoPow 16 n := by
  simp [BitVec.twoPow, ← BitVec.toNat_inj, Nat.shiftLeft_eq]

/-- Every bit of a word after one of them is replaced. -/
theorem getLsbD_putBit (f : Word) (n k : Nat) (b : Bool) (hn : n < 16) :
    (putBit f n b).getLsbD k = if k = n then b else f.getLsbD k := by
  unfold putBit
  rw [ofNat_two_pow]
  by_cases hk : k < 16
  · by_cases h : k = n
    · subst h; cases b <;> simp [hk]
    · cases b
      · simp [hk, h]
      · simp [hk, h]
  · have h1 : ∀ v : Word, v.getLsbD k = false := fun v => BitVec.getLsbD_of_ge v k (Nat.not_lt.mp hk)
    have hne : k ≠ n := by omega
    rw [h1, h1, if_neg hne]

theorem Flag.bit_lt (n : Flag) : n.bit < 16 := by cases n <;> decide

/-- Every bit of FLAGS after one flag is written (R10, R27). -/
theorem getLsbD_putFlag (f : Word) (n : Flag) (k : Nat) (b : Bool) :
    (putFlag f n b).getLsbD k = if k = n.bit then b else f.getLsbD k :=
  getLsbD_putBit f n.bit k b n.bit_lt

theorem oneBit_putFlag (f : Word) (n : Flag) (b : Bool) : OneBit f (putFlag f n b) n.bit b :=
  fun k => getLsbD_putFlag f n k b

/-- `popcount` counts the ones, so `Parity` says that their number is even (R190). -/
theorem parity_eq_evenOnes {w : Nat} (r : BitVec w) : parity r = evenOnes (r.setWidth 8) := by
  unfold parity
  generalize r.setWidth 8 = b
  revert b
  decide

/-- What the flag engine's last step does to every bit of FLAGS (R191 to R196). -/
theorem statusBits_putStatus {w : Nat} (f : Word) (r : BitVec w) (cf ovf af : Bool) :
    StatusBits f (putStatus f r cf ovf af) cf (evenOnes (r.setWidth 8)) af (r == 0) r.msb ovf := by
  rw [← parity_eq_evenOnes]
  unfold StatusBits putStatus putResult
  simp only [getLsbD_putFlag, Flag.bit]
  refine ⟨rfl, rfl, rfl, rfl, rfl, rfl, ?_⟩
  intro n hn
  simp only [List.mem_cons, List.not_mem_nil, or_false, not_or] at hn
  simp [hn]

/-- The status bits of INC and DEC: those of the sum or difference, CF kept (R197). -/
theorem statusBits_restoreCarry {f g : Word} {cf pf af zf sf ovf : Bool} (h : StatusBits f g cf pf af zf sf ovf) :
    StatusBits f (putFlag g .carry (getFlag f .carry)) (f.getLsbD 0) pf af zf sf ovf := by
  obtain ⟨-, hp, ha, hz, hs, ho, hr⟩ := h
  have hk : ∀ k, k ≠ 0 → (putFlag g .carry (getFlag f .carry)).getLsbD k = g.getLsbD k := fun k hk => by
    rw [getLsbD_putFlag]; exact if_neg hk
  refine ⟨?_, (hk 2 (by decide)).trans hp, (hk 4 (by decide)).trans ha, (hk 6 (by decide)).trans hz,
    (hk 7 (by decide)).trans hs, (hk 11 (by decide)).trans ho, fun n hn => (hk n ?_).trans (hr n hn)⟩
  · rw [getLsbD_putFlag]; exact if_pos rfl
  · rintro rfl; exact hn (by simp)

/-- `FLAGS_LOAD` passes the flags with a meaning (R175). -/
theorem loadsFlags_flagsLoad (v : Word) : LoadsFlags v (flagsLoad v) := by
  intro n hn
  simp only [List.mem_cons, List.not_mem_nil, or_false] at hn
  unfold flagsLoad
  rcases hn with h | h | h | h | h | h | h | h | h <;> subst h <;> simp

/-- AF as the spec writes it, a test of one masked bit (R191, R192). -/
theorem masked_aux_byte (x : Byte) : ((x &&& 0x10) != 0) = x.getLsbD 4 := by revert x; decide

theorem masked_msb_byte (x : Byte) : ((x &&& 0x80) != 0) = x.msb := by revert x; decide

/-- A word masked with a power of two is not zero exactly when that bit is set. -/
theorem masked_bit_word (x : Word) (n : Nat) (hn : n < 16) :
    ((x &&& BitVec.ofNat 16 (2 ^ n)) != 0) = x.getLsbD n := by
  rw [ofNat_two_pow, BitVec.and_twoPow]
  cases x.getLsbD n
  · simp
  · interval_cases n <;> decide

end Sys2Proof.Machine
end

