-- ==== Sys2Proof/Laws/Memory.lean ====
section
/-! SUPPORT. The laws of memory: what a read gives after a write, and that every memory operation keeps the
canonical form. -/

namespace Sys2Proof.Machine

theorem Memory.get_erase_self (m : Memory) (a : Nat) : Memory.get (Memory.erase m a) a = Memory.unlisted := by
  induction m with
  | nil => rfl
  | cons c t ih =>
    obtain ⟨b, v⟩ := c
    by_cases h : b = a <;> simp [Memory.erase, Memory.get, h, ih]

theorem Memory.get_erase_ne (m : Memory) {a c : Nat} (h : c ≠ a) :
    Memory.get (Memory.erase m a) c = Memory.get m c := by
  induction m with
  | nil => rfl
  | cons d t ih =>
    obtain ⟨b, v⟩ := d
    by_cases hb : b = a
    · subst hb
      simp [Memory.erase, Memory.get, ih, Ne.symm h]
    · rw [Memory.erase, if_neg hb, Memory.get, Memory.get, ih]

theorem Memory.get_insert_ne (m : Memory) {a c : Nat} (v : Byte) (h : c ≠ a) :
    Memory.get (Memory.insert m a v) c = Memory.get m c := by
  induction m with
  | nil => simp [Memory.insert, Memory.get, Ne.symm h]
  | cons d t ih =>
    obtain ⟨b, w⟩ := d
    by_cases hb : a < b <;> simp [Memory.insert, Memory.get, hb, ih, Ne.symm h]

theorem Memory.get_insert_erase_self (m : Memory) (a : Nat) (v : Byte) :
    Memory.get (Memory.insert (Memory.erase m a) a v) a = v := by
  induction m with
  | nil => simp [Memory.erase, Memory.insert, Memory.get]
  | cons d t ih =>
    obtain ⟨b, w⟩ := d
    by_cases hb : b = a
    · simpa [Memory.erase, hb] using ih
    · by_cases hlt : a < b <;> simp [Memory.erase, Memory.insert, Memory.get, hb, hlt, ih]

/-- A read after a write to the same place gives the value written. -/
@[simp] theorem Memory.get_set_self (m : Memory) (a : Nat) (v : Byte) : Memory.get (Memory.set m a v) a = v := by
  unfold Memory.set
  split
  · rename_i h; rw [Memory.get_erase_self, h]
  · exact Memory.get_insert_erase_self m a v

/-- A write leaves every other place alone. -/
theorem Memory.get_set_ne (m : Memory) {a c : Nat} (v : Byte) (h : c ≠ a) :
    Memory.get (Memory.set m a v) c = Memory.get m c := by
  unfold Memory.set
  split
  · exact Memory.get_erase_ne m h
  · rw [Memory.get_insert_ne _ _ h, Memory.get_erase_ne m h]

theorem Memory.get_set (m : Memory) (a c : Nat) (v : Byte) :
    Memory.get (Memory.set m a v) c = if c = a then v else Memory.get m c := by
  split
  · rename_i h; subst h; exact Memory.get_set_self m c v
  · rename_i h; exact Memory.get_set_ne m v h

/-! ## One byte and one word through the read-only mask -/

/-- What `MemWrite(a, 1, v)` does to every byte (R54). -/
theorem Memory.read8_write8 (p : Params) (m : Memory) (a c : Addr) (v : Byte) :
    Memory.read8 (Memory.write8 p m a v) c =
      if c = a ∧ pageReadOnly p a = false then v else Memory.read8 m c := by
  unfold Memory.write8 Memory.read8
  by_cases hr : pageReadOnly p a = true
  · simp [hr]
  · simp only [Bool.not_eq_true] at hr
    simp [hr, Memory.get_set, BitVec.toNat_inj]

theorem Memory.read8_set (m : Memory) (a c : Addr) (v : Byte) :
    Memory.read8 (Memory.set m a.toNat v) c = if c = a then v else Memory.read8 m c := by
  simp [Memory.read8, Memory.get_set, BitVec.toNat_inj]

/-- The byte after an address is another address. -/
theorem addr_succ_ne (a : Addr) : a + 1 ≠ a := by
  simp

/-- What `MemWrite(a, 2, v)` does to every byte (R56). -/
theorem Memory.read8_write16 (p : Params) (m : Memory) (a c : Addr) (v : Word) :
    Memory.read8 (Memory.write16 p m a v) c =
      if c = a ∧ pageReadOnly p a = false then lowByte v
      else if c = a + 1 ∧ pageReadOnly p (match p.roWordPolicy with | .perByte => a + 1 | .firstByte => a) = false then
        highByte v
      else Memory.read8 m c := by
  have hne := addr_succ_ne a
  unfold Memory.write16
  cases p.roWordPolicy with
  | perByte =>
    simp only [Memory.read8_write8]
    by_cases h1 : c = a + 1
    · simp only [h1, hne, false_and, if_false]
    · simp only [h1, false_and, if_false]
  | firstByte =>
    by_cases hr : pageReadOnly p a = true
    · simp only [hr, if_true, Bool.true_eq_false, and_false, if_false]
    · simp only [Bool.not_eq_true] at hr
      simp only [hr, Bool.false_eq_true, if_false, Memory.read8_set, and_true]
      by_cases h1 : c = a + 1
      · simp only [h1, hne, if_false, if_true]
      · simp only [h1, if_false]

/-- A word write changes no byte but its two (R56). -/
theorem Memory.read8_write16_ne (p : Params) (m : Memory) {a c : Addr} (v : Word) (h0 : c ≠ a) (h1 : c ≠ a + 1) :
    Memory.read8 (Memory.write16 p m a v) c = Memory.read8 m c := by
  rw [Memory.read8_write16, if_neg fun h => h0 h.1, if_neg fun h => h1 h.1]

/-- A list of byte writes changes no byte that it does not name. -/
theorem Memory.read8_writeAll_notMem (p : Params) (ws : List (Addr × Byte)) (c : Addr)
    (h : ∀ w ∈ ws, c ≠ w.1) : ∀ m : Memory, Memory.read8 (Memory.writeAll p m ws) c = Memory.read8 m c := by
  induction ws with
  | nil => intro m; rfl
  | cons w t ih =>
    intro m
    obtain ⟨a, v⟩ := w
    have ha : c ≠ a := h (a, v) (by simp)
    rw [Memory.writeAll, ih (fun w hw => h w (by simp [hw])), Memory.read8_write8]
    simp [ha]

/-! ## The canonical form -/

theorem Memory.wfFrom_mono {m : Memory} {lo hi : Nat} (h : lo ≤ hi) (hm : Memory.wfFrom hi m = true) :
    Memory.wfFrom lo m = true := by
  cases m with
  | nil => rfl
  | cons c t =>
    obtain ⟨b, v⟩ := c
    simp only [Memory.wfFrom, Bool.and_eq_true, decide_eq_true_eq] at hm ⊢
    exact ⟨⟨⟨by omega, hm.1.1.2⟩, hm.1.2⟩, hm.2⟩

theorem Memory.wfFrom_erase {m : Memory} : ∀ {lo : Nat} (a : Nat), Memory.wfFrom lo m = true →
    Memory.wfFrom lo (Memory.erase m a) = true := by
  induction m with
  | nil => intro lo a h; rfl
  | cons c t ih =>
    intro lo a h
    obtain ⟨b, v⟩ := c
    simp only [Memory.wfFrom, Bool.and_eq_true, decide_eq_true_eq] at h
    by_cases hb : b = a
    · simp only [Memory.erase, hb, if_true]
      exact Memory.wfFrom_mono (by omega) (ih a h.2)
    · simp only [Memory.erase, hb, if_false, Memory.wfFrom, Bool.and_eq_true, decide_eq_true_eq]
      exact ⟨h.1, ih a h.2⟩

theorem Memory.wfFrom_insert {m : Memory} : ∀ {lo : Nat} {a : Nat} {v : Byte}, Memory.wfFrom lo m = true →
    (∀ c ∈ m, c.1 ≠ a) → lo ≤ a → a < 2 ^ 20 → v ≠ Memory.unlisted →
    Memory.wfFrom lo (Memory.insert m a v) = true := by
  induction m with
  | nil => intro lo a v h hn hlo ha hv; simp [Memory.insert, Memory.wfFrom, hlo, hv]; omega
  | cons c t ih =>
    intro lo a v h hn hlo ha hv
    obtain ⟨b, w⟩ := c
    simp only [Memory.wfFrom, Bool.and_eq_true, decide_eq_true_eq] at h
    have hba : b ≠ a := hn (b, w) (by simp)
    by_cases hb : a < b
    · simp only [Memory.insert, hb, if_true, Memory.wfFrom, Bool.and_eq_true, decide_eq_true_eq]
      exact ⟨⟨⟨hlo, ha⟩, hv⟩, ⟨⟨by omega, h.1.1.2⟩, h.1.2⟩, h.2⟩
    · simp only [Memory.insert, hb, if_false, Memory.wfFrom, Bool.and_eq_true, decide_eq_true_eq]
      exact ⟨h.1, ih h.2 (fun c hc => hn c (by simp [hc])) (by omega) ha hv⟩

theorem Memory.notMem_erase (m : Memory) (a : Nat) : ∀ c ∈ Memory.erase m a, c.1 ≠ a := by
  induction m with
  | nil => intro c hc; simp [Memory.erase] at hc
  | cons d t ih =>
    intro c hc
    obtain ⟨b, v⟩ := d
    by_cases hb : b = a
    · simp only [Memory.erase, hb, if_true] at hc; exact ih c hc
    · simp only [Memory.erase, hb, if_false, List.mem_cons] at hc
      rcases hc with rfl | hc
      · exact hb
      · exact ih c hc

/-- Writing one byte keeps the canonical form. -/
theorem Memory.wf_set {m : Memory} {a : Nat} (v : Byte) (ha : a < 2 ^ 20) (h : Memory.wf m = true) :
    Memory.wf (Memory.set m a v) = true := by
  unfold Memory.set
  split
  · exact Memory.wfFrom_erase a h
  · rename_i hv
    exact Memory.wfFrom_insert (Memory.wfFrom_erase a h) (Memory.notMem_erase m a) (Nat.zero_le a) ha hv

theorem Memory.wf_write8 (p : Params) {m : Memory} (a : Addr) (v : Byte) (h : Memory.wf m = true) :
    Memory.wf (Memory.write8 p m a v) = true := by
  unfold Memory.write8
  split
  · exact h
  · exact Memory.wf_set v a.isLt h

theorem Memory.wf_write16 (p : Params) {m : Memory} (a : Addr) (v : Word) (h : Memory.wf m = true) :
    Memory.wf (Memory.write16 p m a v) = true := by
  unfold Memory.write16
  cases p.roWordPolicy with
  | perByte => exact Memory.wf_write8 p _ _ (Memory.wf_write8 p _ _ h)
  | firstByte =>
    simp only
    split
    · exact h
    · exact Memory.wf_set _ (BitVec.isLt _) (Memory.wf_set _ a.isLt h)

theorem Memory.wf_write32 (p : Params) {m : Memory} (a : Addr) (v : BitVec 32) (h : Memory.wf m = true) :
    Memory.wf (Memory.write32 p m a v) = true :=
  Memory.wf_write16 p _ _ (Memory.wf_write16 p _ _ h)

theorem Memory.wf_writeAll (p : Params) (ws : List (Addr × Byte)) : ∀ {m : Memory}, Memory.wf m = true →
    Memory.wf (Memory.writeAll p m ws) = true := by
  induction ws with
  | nil => intro m h; exact h
  | cons w t ih => intro m h; exact ih (Memory.wf_write8 p w.1 w.2 h)

theorem Memory.wf_reset : Memory.wf State.reset.mem = true := rfl

end Sys2Proof.Machine
end

