-- ==== Sys2Proof/Laws/Ops.lean ====
section
/-! SUPPORT. What each shared operation can do, said once: stores, the stack, the prefix loop, the end of a
step. -/

namespace Sys2Proof.Machine

/-! ## Stores, in the terms of Safety.lean -/

theorem byteStored_write8 (p : Params) (m : Memory) (a : Addr) (v : Byte) :
    ByteStored p m (Memory.write8 p m a v) a v := by
  refine ⟨?_, fun c hc => ?_⟩
  · rw [Memory.read8_write8]
    unfold roAt pageReadOnly
    cases p.roPages.getLsbD (a.toNat / 4096) <;> simp
  · rw [Memory.read8_write8, if_neg fun h => hc h.1]

theorem wordStored_write16 (p : Params) (m : Memory) (a : Addr) (v : Word) :
    WordStored p m (Memory.write16 p m a v) a v := by
  have hne := addr_succ_ne a
  refine ⟨?_, ?_, fun c h0 h1 => Memory.read8_write16_ne p m v h0 h1⟩
  · rw [Memory.read8_write16, extract_low]
    unfold roAt pageReadOnly
    cases p.roPages.getLsbD (a.toNat / 4096) <;> simp
  · rw [Memory.read8_write16, extract_high]
    unfold roAt pageReadOnly
    simp only [hne, false_and, if_false, true_and]
    cases p.roPages.getLsbD ((match p.roWordPolicy with | .perByte => a + 1 | .firstByte => a : Addr).toNat / 4096) <;>
      simp

/-- A word stored in writable pages reads back. -/
theorem read16_write16 (p : Params) (m : Memory) (a : Addr) (v : Word) (h : WordWritable p a) :
    Memory.read16 (Memory.write16 p m a v) a = v := by
  obtain ⟨h0, h1, -⟩ := wordStored_write16 p m a v
  have e0 := h0.trans (if_neg (by simp [h.1]))
  have e1 := h1.trans (if_neg (by cases p.roWordPolicy <;> simp only [h.1, h.2] <;> decide))
  unfold Memory.read16
  rw [e0, e1, extract_low, extract_high, joinBytes_halves]

/-- A word store leaves a word two or more bytes away. -/
theorem read16_write16_ne (p : Params) (m : Memory) (a b : Addr) (v : Word) (h : 2 ≤ (b - a).toNat)
    (h' : 2 ≤ (a - b).toNat) : Memory.read16 (Memory.write16 p m a v) b = Memory.read16 m b := by
  have h1 : b ≠ a := by rintro rfl; simp at h
  have h2 : b ≠ a + 1 := by rintro rfl; simp at h
  have h3 : b + 1 ≠ a := by rintro rfl; simp at h'
  have h4 : b + 1 ≠ a + 1 := fun e => h1 (by simpa using e)
  unfold Memory.read16
  rw [Memory.read8_write16_ne p m v h1 h2, Memory.read8_write16_ne p m v h3 h4]

/-! ## Prefixes (R112, R115, R116) -/


/-- The prefixes recorded one after another leave code segment, IP and memory. -/
theorem State.foldl_recordPrefix_keeps (ps : List Prefix) : ∀ s : State,
    (ps.foldl State.recordPrefix s).cs = s.cs ∧ (ps.foldl State.recordPrefix s).ip = s.ip ∧
    (ps.foldl State.recordPrefix s).mem = s.mem := by
  induction ps with
  | nil => exact fun s => ⟨rfl, rfl, rfl⟩
  | cons p ps ih =>
    intro s
    obtain ⟨h1, h2, h3⟩ := ih (s.recordPrefix p)
    exact ⟨h1.trans (by simp), h2.trans (by simp), h3.trans (by simp)⟩

/-- Recording prefixes commutes with moving IP. -/
theorem State.foldl_recordPrefix_ip (ps : List Prefix) (v : Word) : ∀ s : State,
    ps.foldl State.recordPrefix { s with ip := v } = { ps.foldl State.recordPrefix s with ip := v } := by
  induction ps with
  | nil => exact fun s => rfl
  | cons p ps ih =>
    intro s
    have h : State.recordPrefix { s with ip := v } p = { s.recordPrefix p with ip := v } := by cases p <;> rfl
    rw [List.foldl_cons, List.foldl_cons, h, ih]

/-- The byte at IP is a prefix exactly when the instruction fetched there is a prefix row. -/
theorem State.prefixOfByte_codeByte (s : State) :
    prefixOfByte (s.memRead8 (lin s.cs s.ip)) = s.fetchInstr.bind Instr.toPrefix := by
  have h : s.codeByte 0 = s.memRead8 (lin s.cs s.ip) := by
    unfold State.codeByte
    rw [show s.ip + 0 = s.ip from BitVec.add_zero _]
  rw [← h]
  exact prefixOfByte_eq_bind _ _ _

/-- The prefix loop at a byte that is no prefix. -/
theorem State.consumePrefixes_stop (n : Nat) (s : State) (h : prefixOfByte (s.memRead8 (lin s.cs s.ip)) = none) :
    State.consumePrefixes (n + 1) s = some s := by
  rw [State.prefixOfByte_codeByte] at h
  unfold State.consumePrefixes
  cases hf : s.fetchInstr with
  | none => rfl
  | some i =>
    rw [hf] at h
    have hi : i.toPrefix = none := h
    simp only [hi]

/-- The prefix loop at a prefix: it is recorded and the loop goes on. -/
theorem State.consumePrefixes_cons (n : Nat) (s : State) (p : Prefix)
    (h : prefixOfByte (s.memRead8 (lin s.cs s.ip)) = some p) :
    State.consumePrefixes (n + 1) s = State.consumePrefixes n ((s.advanceIp 1).recordPrefix p) := by
  rw [State.prefixOfByte_codeByte] at h
  rw [State.consumePrefixes]
  cases hf : s.fetchInstr with
  | none => rw [hf] at h; cases h
  | some i =>
    rw [hf] at h
    have hi : i.toPrefix = some p := h
    simp only [hi]

theorem ofNat_add_ofNat_succ (v : Word) (k : Nat) :
    v + BitVec.ofNat 16 1 + BitVec.ofNat 16 k = v + BitVec.ofNat 16 (k + 1) := by
  rw [BitVec.add_assoc, ← BitVec.ofNat_add, Nat.add_comm]

/-- What the prefix loop does with enough fuel: every prefix is recorded in order, and IP is past them all. -/
theorem State.consumePrefixes_eq (ps : List Prefix) : ∀ (n : Nat) (s : State), ps.length ≤ n →
    BeginsWithPrefixes s ps →
    prefixOfByte (s.memRead8 (lin s.cs (s.ip + BitVec.ofNat 16 ps.length))) = none →
    State.consumePrefixes (n + 1) s =
      some { ps.foldl State.recordPrefix s with ip := s.ip + BitVec.ofNat 16 ps.length } := by
  induction ps with
  | nil =>
    intro n s _ _ h
    have h0 : s.ip + BitVec.ofNat 16 ([] : List Prefix).length = s.ip := BitVec.add_zero _
    rw [h0] at h ⊢
    exact State.consumePrefixes_stop n s h
  | cons p ps ih =>
    intro n s hn hb hz
    obtain ⟨m, rfl⟩ : ∃ m, n = m + 1 := ⟨n - 1, by simp at hn; omega⟩
    have h1 : prefixOfByte (s.memRead8 (lin s.cs s.ip)) = some p := by
      have := hb 0 (by simp)
      rwa [show s.ip + BitVec.ofNat 16 0 = s.ip from BitVec.add_zero _] at this
    rw [State.consumePrefixes_cons _ _ _ h1]
    have hk : ∀ k : Nat, ((s.advanceIp 1).recordPrefix p).memRead8
        (lin ((s.advanceIp 1).recordPrefix p).cs (((s.advanceIp 1).recordPrefix p).ip + BitVec.ofNat 16 k)) =
        s.memRead8 (lin s.cs (s.ip + BitVec.ofNat 16 (k + 1))) := by
      intro k
      unfold State.memRead8
      rw [State.recordPrefix_mem, State.recordPrefix_cs, State.recordPrefix_ip, ← ofNat_add_ofNat_succ]
      rfl
    rw [ih m _ (by simp at hn; omega) (fun k h => by rw [hk]; exact hb (k + 1) (by simpa using h)) (by rw [hk]; exact hz)]
    congr 1
    have hip : ((s.advanceIp 1).recordPrefix p).ip = s.ip + BitVec.ofNat 16 1 := State.recordPrefix_ip _ p
    rw [hip, ofNat_add_ofNat_succ]
    have hs : (s.advanceIp 1).recordPrefix p = { s.recordPrefix p with ip := s.ip + BitVec.ofNat 16 1 } := by
      cases p <;> rfl
    rw [hs, State.foldl_recordPrefix_ip]
    rfl

/-- The prefix loop runs out of fuel only on prefixes. -/
theorem State.consumePrefixes_none (n : Nat) : ∀ s : State,
    (∀ o : Word, (prefixOfByte (s.memRead8 (lin s.cs o))).isSome) → State.consumePrefixes n s = none := by
  induction n with
  | zero => exact fun s _ => rfl
  | succ n ih =>
    intro s h
    obtain ⟨p, hp⟩ := Option.isSome_iff_exists.1 (h s.ip)
    rw [State.consumePrefixes_cons n s p hp]
    refine ih _ fun o => ?_
    unfold State.memRead8
    rw [State.recordPrefix_mem, State.recordPrefix_cs]
    exact h o

/-- Where the prefix loop stops there is no prefix, and only IP and the prefix state have changed. -/
theorem State.consumePrefixes_some (n : Nat) : ∀ s t : State, State.consumePrefixes n s = some t →
    prefixOfByte (t.memRead8 (lin t.cs t.ip)) = none ∧
    t = { s with ip := t.ip, segOvr := t.segOvr, rep := t.rep, repne := t.repne } := by
  induction n with
  | zero => intro s t h; cases h
  | succ n ih =>
    intro s t h
    cases hp : prefixOfByte (s.memRead8 (lin s.cs s.ip)) with
    | none =>
      rw [State.consumePrefixes_stop n s hp] at h
      cases h
      exact ⟨hp, rfl⟩
    | some p =>
      rw [State.consumePrefixes_cons n s p hp] at h
      obtain ⟨h1, h2⟩ := ih _ _ h
      refine ⟨h1, h2.trans ?_⟩
      cases p <;> rfl

/-- When the prefix loop runs out of fuel, every byte it saw was a prefix. -/
theorem State.isSome_of_consumePrefixes_none (n : Nat) : ∀ s : State, State.consumePrefixes n s = none →
    ∀ k, k < n → (prefixOfByte (s.memRead8 (lin s.cs (s.ip + BitVec.ofNat 16 k)))).isSome := by
  induction n with
  | zero => intro s h k hk; omega
  | succ n ih =>
    intro s h k hk
    cases hp : prefixOfByte (s.memRead8 (lin s.cs s.ip)) with
    | none => rw [State.consumePrefixes_stop n s hp] at h; cases h
    | some p =>
      rw [State.consumePrefixes_cons n s p hp] at h
      cases k with
      | zero => rw [show s.ip + BitVec.ofNat 16 0 = s.ip from BitVec.add_zero _, hp]; rfl
      | succ k =>
        have h' := ih _ h k (by omega)
        unfold State.memRead8 at h' ⊢
        rw [State.recordPrefix_mem, State.recordPrefix_cs, State.recordPrefix_ip] at h'
        rw [← ofNat_add_ofNat_succ]
        exact h'

/-! ## The step -/

theorem step_of_hung {s : State} (h : s.hung = true) : step s = .next s := by
  unfold step
  rw [if_pos h]

theorem step_of_halted {s : State} (h : s.hung = false) (h' : s.halted = true) :
    step s = .fault .haltedNoTransition := by
  unfold step
  rw [if_neg (by simp [h]), if_pos h']

/-- A step whose prefix loop ends. -/
theorem step_of_consumePrefixes {s t : State} (h : s.hung = false) (h' : s.halted = false)
    (hc : State.consumePrefixes prefixFuel s.clearPrefixes = some t) : step s = runOpcode t := by
  unfold step
  rw [if_neg (by simp [h]), if_neg (by simp [h']), hc]

/-- A step whose prefix loop never ends (R116). -/
theorem step_of_endless {s : State} (h : s.hung = false) (h' : s.halted = false)
    (hc : State.consumePrefixes prefixFuel s.clearPrefixes = none) : step s = .next s.hang := by
  unfold step
  rw [if_neg (by simp [h]), if_neg (by simp [h']), hc]

theorem stepEnds_finishStep (a : Answer) : StepEnds a (finishStep a) := by
  cases a
  · exact ⟨_, rfl⟩
  · rfl
  · rfl

end Sys2Proof.Machine
end

