-- ==== Sys2Proof/Laws/Screen.lean ====
section
/-! SUPPORT. What the text-screen operations do: which addresses a cell has, what a window fill leaves in every
cell and in the rest of memory, and what teletype output can change. -/

namespace Sys2Proof.Machine

/-! ## Lists of byte writes -/

/-- A list of byte writes that all give an address one value leaves that value there, when the page is writable. -/
theorem Memory.read8_writeAll_mem (p : Params) (ws : List (Addr × Byte)) (c : Addr) (v : Byte)
    (hro : pageReadOnly p c = false) (hall : ∀ w ∈ ws, w.1 = c → w.2 = v) (hex : ∃ w ∈ ws, w.1 = c) :
    ∀ m : Memory, Memory.read8 (Memory.writeAll p m ws) c = v := by
  induction ws with
  | nil => obtain ⟨w, hw, -⟩ := hex; cases hw
  | cons w t ih =>
    intro m
    by_cases h : ∃ u ∈ t, u.1 = c
    · exact ih (fun u hu => hall u (List.mem_cons_of_mem _ hu)) h _
    · have hw : w.1 = c := by
        obtain ⟨u, hu, hc⟩ := hex
        rcases List.mem_cons.1 hu with rfl | hu
        · exact hc
        · exact absurd ⟨u, hu, hc⟩ h
      obtain ⟨a, b⟩ := w
      have hb : b = v := hall (a, b) (by simp) hw
      have hac : a = c := hw
      rw [Memory.writeAll, Memory.read8_writeAll_notMem p t c fun u hu hc => h ⟨u, hu, hc.symm⟩, Memory.read8_write8]
      simp [hac, hro, hb]

/-! ## Cells -/

/-- The offset of a cell's bytes in the text buffer tells the cell. -/
theorem cell_offset_inj {r c r' c' : Nat} (hc : c < 80) (hc' : c' < 80) (h : 80 * r + c = 80 * r' + c') :
    r = r' ∧ c = c' := by omega

theorem State.cellAddr_toNat (s : State) (k : Nat) (hk : k < 4000) :
    ((s.params.textBase + BitVec.ofNat 20 k) - s.params.textBase).toNat = k := by
  rw [BitVec.add_comm, BitVec.add_sub_cancel, BitVec.toNat_ofNat]
  omega

/-- Two text-buffer offsets give one address only when they are equal. -/
theorem text_addr_inj {b : Addr} {k l : Nat} (hk : k < 4000) (hl : l < 4000)
    (h : b + BitVec.ofNat 20 k = b + BitVec.ofNat 20 l) : k = l := by
  have h' : BitVec.ofNat 20 k = BitVec.ofNat 20 l := BitVec.add_right_inj b |>.1 h
  have h2 := congrArg BitVec.toNat h'
  simp only [BitVec.toNat_ofNat] at h2
  omega

theorem State.cellAddr_succ (s : State) (r c : Nat) :
    s.cellAddr r c + 1 = s.params.textBase + BitVec.ofNat 20 (2 * (80 * r + c) + 1) := by
  unfold State.cellAddr
  rw [BitVec.ofNat_add, BitVec.add_assoc]
  rfl

theorem inTextBuffer_offset (p : Params) {k : Nat} (hk : k < 4000) :
    inTextBuffer p (p.textBase + BitVec.ofNat 20 k) = true := by
  unfold inTextBuffer
  rw [BitVec.add_comm, BitVec.add_sub_cancel, BitVec.toNat_ofNat]
  simp only [decide_eq_true_eq]
  omega

theorem State.inTextBuffer_cellAddr (s : State) {r c : Nat} (hr : r < 25) (hc : c < 80) :
    inTextBuffer s.params (s.cellAddr r c) = true ∧ inTextBuffer s.params (s.cellAddr r c + 1) = true := by
  rw [State.cellAddr_succ]
  exact ⟨inTextBuffer_offset _ (by omega), inTextBuffer_offset _ (by omega)⟩

/-- A cell is the two bytes at its address, and only the text base and memory matter for it. -/
theorem State.readCell_eq (s t : State) (h : t.params = s.params) (r c : Nat) :
    t.readCell r c = (Memory.read8 t.mem (s.cellAddr r c), Memory.read8 t.mem (s.cellAddr r c + 1)) := by
  unfold State.readCell State.cellAddr
  rw [h]
  rfl

/-- Two states with one memory and one text base show the same cells. -/
theorem State.readCell_congr {s t : State} (hp : t.params = s.params) (hm : t.mem = s.mem) (r c : Nat) :
    t.readCell r c = s.readCell r c := by
  rw [State.readCell_eq s t hp, State.readCell_eq s s rfl, hm]

@[simp] theorem State.fillWindow_params (s : State) (top left rows cols : Nat) (f : Nat → Nat → TextCell) :
    (s.fillWindow top left rows cols f).params = s.params := rfl

@[simp] theorem State.fillWindow_bios (s : State) (top left rows cols : Nat) (f : Nat → Nat → TextCell) :
    (s.fillWindow top left rows cols f).bios = s.bios := rfl

/-- A window fill changes memory only. -/
theorem State.fillWindow_eq (s : State) (top left rows cols : Nat) (f : Nat → Nat → TextCell) :
    s.fillWindow top left rows cols f = { s with mem := (s.fillWindow top left rows cols f).mem } := rfl

/-- Every write of a window fill is one byte of a cell of the window. -/
theorem State.mem_windowWrites {s : State} {top left rows cols : Nat} {f : Nat → Nat → TextCell} {w : Addr × Byte}
    (h : w ∈ s.windowWrites top left rows cols f) : ∃ r c : Nat, top ≤ r ∧ r < top + rows ∧ left ≤ c ∧ c < left + cols ∧
      (w = (s.cellAddr r c, (f r c).1) ∨ w = (s.cellAddr r c + 1, (f r c).2)) := by
  unfold State.windowWrites at h
  simp only [List.mem_flatMap, List.mem_range, State.cellWrites] at h
  obtain ⟨r, hr, c, hc, hw⟩ := h
  refine ⟨top + r, left + c, by omega, by omega, by omega, by omega, ?_⟩
  simpa using hw

theorem State.windowWrites_mem (s : State) {top left rows cols : Nat} (f : Nat → Nat → TextCell) {r c : Nat}
    (hr : top ≤ r) (hr' : r < top + rows) (hc : left ≤ c) (hc' : c < left + cols) :
    (s.cellAddr r c, (f r c).1) ∈ s.windowWrites top left rows cols f ∧
    (s.cellAddr r c + 1, (f r c).2) ∈ s.windowWrites top left rows cols f := by
  unfold State.windowWrites
  simp only [List.mem_flatMap, List.mem_range]
  constructor
  · refine ⟨r - top, by omega, c - left, by omega, ?_⟩
    rw [show top + (r - top) = r by omega, show left + (c - left) = c by omega]
    simp [State.cellWrites]
  · refine ⟨r - top, by omega, c - left, by omega, ?_⟩
    rw [show top + (r - top) = r by omega, show left + (c - left) = c by omega]
    simp [State.cellWrites]

/-- A window fill on the screen writes the text buffer only. -/
theorem State.fillWindow_frame (s : State) {top left rows cols : Nat} (f : Nat → Nat → TextCell)
    (hr : top + rows ≤ 25) (hc : left + cols ≤ 80) (a : Addr) (ha : inTextBuffer s.params a = false) :
    (s.fillWindow top left rows cols f).memRead8 a = s.memRead8 a := by
  refine Memory.read8_writeAll_notMem _ _ _ ?_ _
  rintro w hw rfl
  obtain ⟨r, c, -, h2, -, h4, h | h⟩ := State.mem_windowWrites hw
  · rw [h] at ha
    exact absurd ((s.inTextBuffer_cellAddr (by omega) (by omega)).1.symm.trans ha) (by decide)
  · rw [h] at ha
    exact absurd ((s.inTextBuffer_cellAddr (by omega) (by omega)).2.symm.trans ha) (by decide)

/-- Every cell of the screen after a window fill: `f` inside the window, as before outside it. -/
theorem State.readCell_fillWindow (s : State) {top left rows cols : Nat} (f : Nat → Nat → TextCell)
    (hr : top + rows ≤ 25) (hc : left + cols ≤ 80) (hw : TextWritable s.params) {r c : Nat} (hrow : r < 25) (hcol : c < 80) :
    (s.fillWindow top left rows cols f).readCell r c =
      if top ≤ r ∧ r < top + rows ∧ left ≤ c ∧ c < left + cols then f r c else s.readCell r c := by
  have e : (s.fillWindow top left rows cols f).readCell r c =
      (Memory.read8 (Memory.writeAll s.params s.mem (s.windowWrites top left rows cols f)) (s.cellAddr r c),
       Memory.read8 (Memory.writeAll s.params s.mem (s.windowWrites top left rows cols f)) (s.cellAddr r c + 1)) := rfl
  have even : ∀ {r' c' : Nat}, r' < 25 → c' < 80 → s.cellAddr r' c' = s.cellAddr r c → r' = r ∧ c' = c := by
    intro r' c' h1 h2 h
    have := text_addr_inj (by omega) (by omega) h
    omega
  have odd : ∀ {r' c' : Nat}, r' < 25 → c' < 80 → s.cellAddr r' c' + 1 = s.cellAddr r c + 1 → r' = r ∧ c' = c := by
    intro r' c' h1 h2 h
    rw [State.cellAddr_succ, State.cellAddr_succ] at h
    have := text_addr_inj (by omega) (by omega) h
    omega
  have cross : ∀ {r' c' r'' c'' : Nat}, r' < 25 → c' < 80 → r'' < 25 → c'' < 80 →
      s.cellAddr r' c' ≠ s.cellAddr r'' c'' + 1 := by
    intro r' c' r'' c'' h1 h2 h3 h4 h
    rw [State.cellAddr_succ] at h
    have := text_addr_inj (by omega) (by omega) h
    omega
  rw [e]
  split
  · rename_i h
    obtain ⟨m1, m2⟩ := s.windowWrites_mem f h.1 h.2.1 h.2.2.1 h.2.2.2
    rw [Memory.read8_writeAll_mem s.params _ (s.cellAddr r c) (f r c).1 (hw _ (by omega)) ?_ ⟨_, m1, rfl⟩,
      Memory.read8_writeAll_mem s.params _ (s.cellAddr r c + 1) (f r c).2
        (by rw [State.cellAddr_succ]; exact hw _ (by omega)) ?_ ⟨_, m2, rfl⟩]
    · intro w hmem hw1
      obtain ⟨r', c', -, h2, -, h4, rfl | rfl⟩ := State.mem_windowWrites hmem
      · exact absurd hw1 (cross (by omega) (by omega) hrow hcol)
      · obtain ⟨rfl, rfl⟩ := odd (by omega) (by omega) hw1
        rfl
    · intro w hmem hw1
      obtain ⟨r', c', -, h2, -, h4, rfl | rfl⟩ := State.mem_windowWrites hmem
      · obtain ⟨rfl, rfl⟩ := even (by omega) (by omega) hw1
        rfl
      · exact absurd hw1.symm (cross hrow hcol (by omega) (by omega))
  · rename_i h
    rw [Memory.read8_writeAll_notMem, Memory.read8_writeAll_notMem]
    · rfl
    · intro w hmem hw1
      obtain ⟨r', c', h1, h2, h3, h4, rfl | rfl⟩ := State.mem_windowWrites hmem
      · exact absurd hw1.symm (cross (by omega) (by omega) hrow hcol)
      · obtain ⟨rfl, rfl⟩ := odd (by omega) (by omega) hw1.symm
        exact h ⟨h1, h2, h3, h4⟩
    · intro w hmem hw1
      obtain ⟨r', c', h1, h2, h3, h4, rfl | rfl⟩ := State.mem_windowWrites hmem
      · obtain ⟨rfl, rfl⟩ := even (by omega) (by omega) hw1.symm
        exact h ⟨h1, h2, h3, h4⟩
      · exact absurd hw1 (cross hrow hcol (by omega) (by omega))

/-- Writing one cell is filling a window of one cell. -/
theorem State.writeCell_eq_fillWindow (s : State) (r c : Nat) (v : TextCell) :
    s.writeCell r c v = s.fillWindow r c 1 1 fun _ _ => v := by
  unfold State.writeCell State.fillWindow State.windowWrites
  rfl

/-! ## Teletype output -/

/-- What teletype output can change: memory in the text buffer, and the cursor, which stays on the screen. -/
structure TeletypeChange (s t : State) : Prop where
  rest : t = { s with mem := t.mem, bios := { s.bios with curRow := t.bios.curRow, curCol := t.bios.curCol } }
  cursor : t.bios.curRow.toNat < 25 ∧ t.bios.curCol.toNat < 80
  wf : Memory.wf s.mem = true → Memory.wf t.mem = true
  frame : ∀ a : Addr, inTextBuffer s.params a = false → t.memRead8 a = s.memRead8 a

theorem TeletypeChange.params {s t : State} (h : TeletypeChange s t) : t.params = s.params := by rw [h.rest]

theorem TeletypeChange.trans {s t u : State} (h : TeletypeChange s t) (h' : TeletypeChange t u) :
    TeletypeChange s u where
  rest := by
    have e := h'.rest
    rw [h.rest] at e
    exact e
  cursor := h'.cursor
  wf hm := h'.wf (h.wf hm)
  frame a ha := (h'.frame a (by rw [h.params]; exact ha)).trans (h.frame a ha)

theorem State.setCursor_change (s : State) (row col : Byte) (hr : row.toNat < 25) (hc : col.toNat < 80) :
    TeletypeChange s (s.setCursor row col) :=
  ⟨rfl, ⟨hr, hc⟩, fun h => h, fun _ _ => rfl⟩

theorem State.fillWindow_change (s : State) {top left rows cols : Nat} (f : Nat → Nat → TextCell)
    (h : s.bios.curRow.toNat < 25 ∧ s.bios.curCol.toNat < 80) (hr : top + rows ≤ 25) (hc : left + cols ≤ 80) :
    TeletypeChange s (s.fillWindow top left rows cols f) :=
  ⟨rfl, h, Memory.wf_writeAll _ _, s.fillWindow_frame f hr hc⟩

theorem State.lineDown_change (s : State) (col : Byte) (h : s.bios.curRow.toNat < 25 ∧ s.bios.curCol.toNat < 80)
    (hc : col.toNat < 80) : TeletypeChange s (s.lineDown col) := by
  unfold State.lineDown
  split
  · exact (s.fillWindow_change _ h (by omega) (by omega)).trans (State.setCursor_change _ 24 col (by decide) hc)
  · rename_i hne
    refine s.setCursor_change _ col ?_ hc
    have : s.bios.curRow + 1 ≠ 25 := hne
    bv_omega

theorem State.putChar_change (s : State) (c : Byte) (h : s.bios.curRow.toNat < 25 ∧ s.bios.curCol.toNat < 80) :
    TeletypeChange s (s.putChar c) := by
  unfold State.putChar
  split
  · exact ⟨rfl, h, fun h => h, fun _ _ => rfl⟩
  split
  · split
    · exact ⟨rfl, h, fun h => h, fun _ _ => rfl⟩
    · rename_i hne
      exact s.setCursor_change _ _ h.1 (by have := h.2; bv_omega)
  split
  · split
    · exact s.lineDown_change 0 h (by decide)
    · rename_i hlt
      exact s.setCursor_change _ _ h.1 (by omega)
  split
  · exact s.lineDown_change _ h h.2
  split
  · exact s.setCursor_change _ 0 h.1 (by decide)
  · have hw := s.fillWindow_change (fun _ _ => (c, s.bios.attr)) h
      (show s.bios.curRow.toNat + 1 ≤ 25 by omega) (show s.bios.curCol.toNat + 1 ≤ 80 by omega)
    rw [← State.writeCell_eq_fillWindow] at hw
    simp only
    split
    · exact hw.trans (State.lineDown_change _ 0 h (by decide))
    · rename_i hne
      exact hw.trans (State.setCursor_change _ _ _ h.1 (by have := h.2; bv_omega))

theorem State.fillWindow_ax (s : State) (v : Word) (top left rows cols : Nat) (f : Nat → Nat → TextCell) :
    State.fillWindow { s with ax := v } top left rows cols f = { s.fillWindow top left rows cols f with ax := v } := rfl

theorem State.lineDown_ax (s : State) (v : Word) (col : Byte) :
    State.lineDown { s with ax := v } col = { s.lineDown col with ax := v } := by
  unfold State.lineDown
  by_cases h : s.bios.curRow + 1 = 25
  · rw [if_pos h, if_pos h]
    have e : State.scrollAll { s with ax := v } = { s.scrollAll with ax := v } := State.fillWindow_ax s v _ _ _ _ _
    rw [e]
    rfl
  · rw [if_neg h, if_neg h]
    rfl

/-- Teletype output does not depend on AX. -/
theorem State.putChar_ax (s : State) (v : Word) (c : Byte) :
    State.putChar { s with ax := v } c = { s.putChar c with ax := v } := by
  unfold State.putChar
  split
  · rfl
  split
  · by_cases h : s.bios.curCol = 0
    · rw [if_pos h, if_pos h]
    · rw [if_neg h, if_neg h]
      rfl
  split
  · by_cases h : 80 ≤ s.tabStop.toNat
    · rw [if_pos h]
      exact (if_pos h).trans (s.lineDown_ax v 0)
    · rw [if_neg h]
      exact if_neg h
  split
  · exact s.lineDown_ax v _
  split
  · rfl
  · have e : State.writeCell { s with ax := v } s.bios.curRow.toNat s.bios.curCol.toNat (c, s.bios.attr) =
        { s.writeCell s.bios.curRow.toNat s.bios.curCol.toNat (c, s.bios.attr) with ax := v } := rfl
    simp only
    rw [e]
    by_cases h : s.bios.curCol + 1 = 80
    · rw [if_pos h, if_pos h]
      exact State.lineDown_ax _ v 0
    · rw [if_neg h, if_neg h]
      rfl

theorem State.cursorOk_iff (s : State) : s.cursorOk = true ↔ s.bios.curRow.toNat < 25 ∧ s.bios.curCol.toNat < 80 := by
  unfold State.cursorOk
  simp

/-- What `Teletype` answers: a change of the screen, or a refusal when the cursor is off the screen. -/
theorem State.teletype_cases (s : State) (c : Byte) :
    (s.teletype c = .next (s.putChar c) ∧ TeletypeChange s (s.putChar c)) ∨
    (s.teletype c = .refused (.cursorOutOfRange s.bios.curRow s.bios.curCol) ∧ s.cursorOk = false) := by
  unfold State.teletype State.refuseCursor
  by_cases h : s.cursorOk = true
  · exact .inl ⟨if_pos h, s.putChar_change c (s.cursorOk_iff.1 h)⟩
  · exact .inr ⟨if_neg h, by simpa using h⟩

end Sys2Proof.Machine
end

