-- ==== Sys2Proof/Laws/Services.lean ====
section
/-! SUPPORT. What a service can do, said once for each of the four and for the dispatch of INT. -/

namespace Sys2Proof.Machine

/-! ## The keyboard ring -/

theorem Ring.pop_nil (cap : Nat) {r : Ring} (h : r.keys = []) : r.pop cap = r := by
  unfold Ring.pop
  rw [h]

theorem Ring.pop_cons (cap : Nat) {r : Ring} {k : Key} {rest : List Key} (h : r.keys = k :: rest) :
    r.pop cap = { keys := rest, head := (r.head + 1) % cap, tail := r.tail } := by
  unfold Ring.pop ringNext
  rw [h]

theorem Ring.wf_pop {cap : Nat} {r : Ring} (h : r.Wf cap) : (r.pop cap).Wf cap := by
  obtain ⟨hl, hh, ht⟩ := h
  cases hk : r.keys with
  | nil => rw [Ring.pop_nil cap hk]; exact ⟨hl, hh, ht⟩
  | cons k rest =>
    rw [hk, List.length_cons] at hl ht
    rw [Ring.pop_cons cap hk]
    refine ⟨by show rest.length ≤ cap; omega, Nat.mod_lt _ (by omega), ?_⟩
    show r.tail = ((r.head + 1) % cap + rest.length) % cap
    rw [ht, Nat.mod_add_mod, Nat.add_assoc, Nat.add_comm 1]

theorem Ring.wf_push {cap : Nat} {r : Ring} (h : r.Wf cap) (hc : r.keys.length < cap) (k : Key) :
    (r.push cap k).Wf cap := by
  obtain ⟨-, hh, ht⟩ := h
  refine ⟨by simpa [Ring.push] using hc, hh, ?_⟩
  show (r.tail + 1) % cap = (r.head + (r.keys ++ [k]).length) % cap
  rw [ht, Nat.mod_add_mod, List.length_append, List.length_singleton, Nat.add_assoc]

/-! ## The services -/

/-- What a service can change: AX, CX, DX, CF, ZF, the BIOS context, the text buffer, `halted` (which it never
clears) and the model's own fields. The cursor stays on the screen and the ring stays a ring. -/
structure ServiceChange (s t : State) : Prop where
  rest : t = { s with
    ax := t.ax, cx := t.cx, dx := t.dx, flags := t.flags, mem := t.mem, bios := t.bios
    drawCount := t.drawCount, halted := t.halted, hung := t.hung }
  flags : ∀ k : Nat, k ≠ 0 → k ≠ 6 → t.flags.getLsbD k = s.flags.getLsbD k
  halted : s.halted = true → t.halted = true
  cursor : s.bios.curRow.toNat < 25 ∧ s.bios.curCol.toNat < 80 → t.bios.curRow.toNat < 25 ∧ t.bios.curCol.toNat < 80
  ring : s.bios.kbd.Wf s.params.kbdCap → t.bios.kbd.Wf s.params.kbdCap
  wf : Memory.wf s.mem = true → Memory.wf t.mem = true
  frame : ∀ a : Addr, inTextBuffer s.params a = false → t.memRead8 a = s.memRead8 a

theorem ServiceChange.refl (s : State) : ServiceChange s s :=
  ⟨rfl, fun _ _ _ => rfl, fun h => h, fun h => h, fun h => h, fun h => h, fun _ _ => rfl⟩

theorem ServiceChange.params {s t : State} (h : ServiceChange s t) : t.params = s.params := by rw [h.rest]

theorem ServiceChange.trans {s t u : State} (h : ServiceChange s t) (h' : ServiceChange t u) : ServiceChange s u where
  rest := by
    have e := h'.rest
    rw [h.rest] at e
    exact e
  flags k h0 h6 := (h'.flags k h0 h6).trans (h.flags k h0 h6)
  halted hs := h'.halted (h.halted hs)
  cursor hs := h'.cursor (h.cursor hs)
  ring hr := by
    have h2 := h'.ring
    rw [h.params] at h2
    exact h2 (h.ring hr)
  wf hm := h'.wf (h.wf hm)
  frame a ha := (h'.frame a (by rw [h.params]; exact ha)).trans (h.frame a ha)

theorem TeletypeChange.service {s t : State} (h : TeletypeChange s t) : ServiceChange s t where
  rest := by
    have e := h.rest
    rw [e]
  flags k _ _ := by rw [h.rest]
  halted hs := by rw [h.rest]; exact hs
  cursor _ := h.cursor
  ring hr := by rw [h.rest]; exact hr
  wf := h.wf
  frame := h.frame

/-- A change of registers, draws and suspension only. -/
theorem ServiceChange.regs (s : State) (ax cx dx : Word) (d : Nat) (hung : Bool) :
    ServiceChange s { s with ax := ax, cx := cx, dx := dx, drawCount := d, hung := hung } :=
  ⟨rfl, fun _ _ _ => rfl, fun h => h, fun h => h, fun h => h, fun h => h, fun _ _ => rfl⟩

/-- A change of one of the two flags that services write. -/
theorem ServiceChange.flag (s : State) (n : Flag) (b : Bool) (hn : n.bit = 0 ∨ n.bit = 6) :
    ServiceChange s (s.setFlag n b) where
  rest := rfl
  flags k h0 h6 := by
    show (putFlag s.flags n b).getLsbD k = _
    rw [getLsbD_putFlag, if_neg]
    rcases hn with h | h <;> rw [h] <;> assumption
  halted h := h
  cursor h := h
  ring h := h
  wf h := h
  frame _ _ := rfl

/-- What a `next` answer of a teletype says. -/
theorem State.teletype_next {s t : State} {c : Byte} (h : s.teletype c = .next t) :
    t = s.putChar c ∧ TeletypeChange s t := by
  rcases s.teletype_cases c with ⟨h', hc⟩ | ⟨h', -⟩
  · rw [h'] at h
    cases h
    exact ⟨rfl, hc⟩
  · rw [h'] at h
    cases h

theorem State.readKey_change (s : State) : ServiceChange s s.readKey := by
  unfold State.readKey
  split
  · exact ServiceChange.regs s 0 s.cx s.dx s.drawCount s.hung
  · rename_i k rest hk
    exact ⟨rfl, fun _ _ _ => rfl, fun h => h, fun h => h, Ring.wf_pop, fun h => h, fun _ _ => rfl⟩

theorem State.drawReg8_change (s : State) (r : Reg8) (hr : r = .al ∨ r = .ah) : ServiceChange s (s.drawReg8 r) := by
  rcases hr with rfl | rfl <;> exact ServiceChange.regs s _ s.cx s.dx (s.drawCount + 1) s.hung

theorem serviceKeyboard_next {s t : State} (h : serviceKeyboard s = .next t) : ServiceChange s t := by
  unfold serviceKeyboard at h
  split at h
  · cases h
    exact s.readKey_change
  · unfold keyboardCheck at h
    split at h <;> cases h
    · exact (ServiceChange.flag s .zero true (.inr rfl)).trans (ServiceChange.regs _ _ _ _ _ _)
    · exact (ServiceChange.flag s .zero false (.inr rfl)).trans (ServiceChange.regs _ _ _ _ _ _)
  · cases h
    exact ServiceChange.regs s _ s.cx s.dx s.drawCount s.hung
  · cases h
    exact ServiceChange.refl s

theorem State.diskSuccess_change (s : State) : ServiceChange s s.diskSuccess :=
  (ServiceChange.regs s (withHigh s.ax 0x00) s.cx s.dx s.drawCount s.hung).trans (ServiceChange.flag _ .carry false (.inl rfl))

theorem serviceDisk_next {s t : State} (h : serviceDisk s = .next t) : ServiceChange s t := by
  unfold serviceDisk at h
  split at h <;> cases h
  · exact s.diskSuccess_change
  · exact s.diskSuccess_change.trans (State.drawReg8_change _ _ (.inl rfl))
  · exact s.diskSuccess_change.trans (State.drawReg8_change _ _ (.inl rfl))
  · exact s.diskSuccess_change.trans (ServiceChange.regs _ _ _ _ _ _)
  · exact ServiceChange.refl s

theorem State.scrollWindow_next {s t : State} {f : Nat → Nat → TextCell} (h : s.scrollWindow f = .next t) :
    ServiceChange s t := by
  unfold State.scrollWindow at h
  split at h
  · cases h
    exact ServiceChange.refl s
  split at h
  · cases h
  · rename_i h1 h2
    cases h
    rw [not_or, BitVec.not_lt, BitVec.not_lt, BitVec.le_def, BitVec.le_def] at h1
    rw [not_or] at h2
    exact ⟨rfl, fun _ _ _ => rfl, fun h => h, fun h => h, fun h => h, Memory.wf_writeAll _ _,
      s.fillWindow_frame f (by omega) (by omega)⟩

/-- The fields that filling a window and then writing the BIOS context leaves (R304). -/
theorem State.fillWindow_bios_change (s : State) {top left rows cols : Nat} (f : Nat → Nat → TextCell) (mode : Byte)
    (hr : top + rows ≤ 25) (hc : left + cols ≤ 80) :
    ServiceChange s { s.fillWindow top left rows cols f with
      bios := { s.bios with videoMode := mode, curRow := 0, curCol := 0 } } :=
  ⟨rfl, fun _ _ _ => rfl, fun h => h, fun _ => ⟨show (0 : Byte).toNat < 25 by decide, show (0 : Byte).toNat < 80 by decide⟩,
    fun h => h, Memory.wf_writeAll _ _,
    s.fillWindow_frame f hr hc⟩

theorem serviceVideo_next {s t : State} (h : serviceVideo s = .next t) : ServiceChange s t := by
  unfold serviceVideo at h
  split at h
  · cases h
    exact s.fillWindow_bios_change _ _ (by decide) (by decide)
  · cases h
    exact ⟨rfl, fun _ _ _ => rfl, fun h => h, fun h => h, fun h => h, fun h => h, fun _ _ => rfl⟩
  · unfold videoSetCursor at h
    split at h <;> cases h
    rename_i hc
    exact (s.setCursor_change _ _ hc.1 hc.2).service
  · cases h
    exact ServiceChange.regs s s.ax _ _ s.drawCount s.hung
  · cases h
    exact ⟨rfl, fun _ _ _ => rfl, fun h => h, fun h => h, fun h => h, fun h => h, fun _ _ => rfl⟩
  · exact State.scrollWindow_next h
  · exact State.scrollWindow_next h
  · unfold videoReadCell State.refuseCursor at h
    split at h <;> cases h
    exact ServiceChange.regs s _ s.cx s.dx s.drawCount s.hung
  · unfold videoWriteCell State.writeAtCursor State.refuseCursor at h
    split at h
    · cases h
    split at h <;> cases h
    rename_i hc
    have hc' := s.cursorOk_iff.1 hc
    rw [State.writeCell_eq_fillWindow]
    exact (s.fillWindow_change _ hc' (by omega) (by omega)).service
  · unfold videoWriteChar State.refuseCursor at h
    split at h
    · cases h
    split at h <;> cases h
    rename_i hc
    have hc' := s.cursorOk_iff.1 hc
    refine ⟨rfl, fun _ _ _ => rfl, fun h => h, fun h => h, fun h => h, Memory.wf_write8 _ _ _, fun a ha => ?_⟩
    refine (byteStored_write8 s.params s.mem _ _).2 a ?_
    rintro rfl
    exact absurd ((s.inTextBuffer_cellAddr hc'.1 hc'.2).1.symm.trans ha) (by decide)
  · exact (State.teletype_next h).2.service
  · cases h
    exact ServiceChange.refl s

/-- What the loop of DOS string output can answer: the screen printed on, then a draw or a hang. -/
theorem dosPrint_next (n : Nat) : ∀ (off : Word) (s t : State), dosPrint n off s = .next t →
    ∃ u : State, (u = s ∨ TeletypeChange s u) ∧ (t = u.hang ∨ t = u.drawReg8 .al) := by
  induction n with
  | zero =>
    intro off s t h
    cases h
    exact ⟨s, .inl rfl, .inl rfl⟩
  | succ n ih =>
    intro off s t h
    unfold dosPrint at h
    split at h
    · cases h
      exact ⟨s, .inl rfl, .inr rfl⟩
    · split at h
      · rename_i v hv
        obtain ⟨u, hu, ht⟩ := ih _ _ _ h
        have hc := (State.teletype_next hv).2
        refine ⟨u, .inr ?_, ht⟩
        rcases hu with rfl | hu
        · exact hc
        · exact hc.trans hu
      · cases h
      · cases h

/-- DOS string output stops only for a cursor that is off the screen at its start. -/
theorem dosPrint_stop (n : Nat) : ∀ (off : Word) (s : State),
    (∀ f, dosPrint n off s ≠ .fault f) ∧
    ∀ e, dosPrint n off s = .refused e → e = .cursorOutOfRange s.bios.curRow s.bios.curCol ∧ s.cursorOk = false := by
  induction n with
  | zero => exact fun off s => ⟨fun f h => (by cases h), fun e h => (by cases h)⟩
  | succ n ih =>
    intro off s
    unfold dosPrint
    split
    · exact ⟨fun f h => (by cases h), fun e h => (by cases h)⟩
    · rcases s.teletype_cases (s.memRead8 (lin s.ds off)) with ⟨h, hc⟩ | ⟨h, hc⟩
      · rw [h]
        refine ⟨(ih _ _).1, fun e he => ?_⟩
        have := ((ih _ _).2 e he).2
        rw [← Bool.not_eq_true, State.cursorOk_iff] at this
        exact absurd hc.cursor this
      · rw [h]
        exact ⟨fun f h => (by cases h), fun e h => (by cases h; exact ⟨rfl, hc⟩)⟩

theorem drawAfter_next {r : Reg8} {a : Answer} {t : State} (h : drawAfter r a = .next t) :
    ∃ u : State, a = .next u ∧ t = u.drawReg8 r := by
  cases a with
  | next u => cases h; exact ⟨u, rfl, rfl⟩
  | fault f => cases h
  | refused e => cases h

theorem serviceDos_next {s t : State} (h : serviceDos s = .next t) : ServiceChange s t := by
  unfold serviceDos at h
  split at h
  · have key : ∀ a : Answer, (∀ u, a = .next u → ServiceChange s u) → drawAfter .ah a = .next t → ServiceChange s t := by
      intro a ha hd
      obtain ⟨u, hu, rfl⟩ := drawAfter_next hd
      exact (ha u hu).trans (State.drawReg8_change _ _ (.inr rfl))
    unfold dosInput at h
    split at h
    · refine key _ (fun u hu => ?_) h
      cases hu
      exact s.readKey_change
    · refine key _ (fun u hu => ?_) h
      exact s.readKey_change.trans (State.teletype_next hu).2.service
  · unfold dosOutput at h
    obtain ⟨u, hu, rfl⟩ := drawAfter_next h
    exact (State.teletype_next hu).2.service.trans (State.drawReg8_change _ _ (.inl rfl))
  · obtain ⟨u, hu, ht⟩ := dosPrint_next _ _ _ _ h
    have hsu : ServiceChange s u := by
      rcases hu with rfl | hu
      · exact ServiceChange.refl _
      · exact hu.service
    rcases ht with rfl | rfl
    · exact hsu.trans (ServiceChange.regs u u.ax u.cx u.dx u.drawCount true)
    · exact hsu.trans (State.drawReg8_change _ _ (.inl rfl))
  · cases h
    exact ⟨rfl, fun _ _ _ => rfl, fun _ => rfl, fun h => h, fun h => h, fun h => h, fun _ _ => rfl⟩
  · cases h
    exact ServiceChange.refl s

/-- What any service can do. -/
theorem service_next {n : Byte} {s t : State} (h : service n s = .next t) : ServiceChange s t := by
  unfold service at h
  split at h
  · exact serviceVideo_next h
  · exact serviceDisk_next h
  · exact serviceKeyboard_next h
  · exact serviceDos_next h
  · cases h
    exact ServiceChange.refl s

/-! ## What the services leave alone beside that, and when they are refused -/

/-- The same for a window fill followed by a write of the BIOS context (R304). -/
theorem State.fillWindow_hidden (s : State) {top left rows cols : Nat} {f : Nat → Nat → TextCell} {b : Bios} {t : State}
    (h : (.next { s.fillWindow top left rows cols f with bios := b } : Answer) = .next t) :
    t.halted = s.halted ∧ t.hung = s.hung ∧ t.drawCount = s.drawCount := by
  cases h
  exact ⟨rfl, rfl, rfl⟩

/-- What the video services never change beside what ServiceChange says. -/
theorem serviceVideo_hidden {s t : State} (h : serviceVideo s = .next t) :
    t.halted = s.halted ∧ t.hung = s.hung ∧ t.drawCount = s.drawCount := by
  have scroll : ∀ f, s.scrollWindow f = .next t → t.halted = s.halted ∧ t.hung = s.hung ∧ t.drawCount = s.drawCount := by
    intro f h
    unfold State.scrollWindow at h
    split at h
    · cases h; exact ⟨rfl, rfl, rfl⟩
    split at h <;> cases h
    exact ⟨rfl, rfl, rfl⟩
  unfold serviceVideo at h
  split at h
  · exact s.fillWindow_hidden h
  · cases h; exact ⟨rfl, rfl, rfl⟩
  · unfold videoSetCursor at h
    split at h <;> cases h
    exact ⟨rfl, rfl, rfl⟩
  · cases h; exact ⟨rfl, rfl, rfl⟩
  · cases h; exact ⟨rfl, rfl, rfl⟩
  · exact scroll _ h
  · exact scroll _ h
  · unfold videoReadCell State.refuseCursor at h
    split at h <;> cases h
    exact ⟨rfl, rfl, rfl⟩
  · unfold videoWriteCell State.writeAtCursor State.refuseCursor at h
    split at h
    · cases h
    split at h <;> cases h
    exact ⟨rfl, rfl, rfl⟩
  · unfold videoWriteChar State.refuseCursor at h
    split at h
    · cases h
    split at h <;> cases h
    exact ⟨rfl, rfl, rfl⟩
  · rw [(State.teletype_next h).2.rest]
    exact ⟨rfl, rfl, rfl⟩
  · cases h; exact ⟨rfl, rfl, rfl⟩

/-- The disk services do not touch the BIOS context. -/
theorem serviceDisk_hidden {s t : State} (h : serviceDisk s = .next t) :
    t.bios = s.bios ∧ t.halted = s.halted ∧ t.hung = s.hung := by
  unfold serviceDisk at h
  split at h <;> cases h <;> exact ⟨rfl, rfl, rfl⟩

theorem State.readKey_hidden (s : State) :
    s.readKey.halted = s.halted ∧ s.readKey.hung = s.hung ∧ s.readKey.drawCount = s.drawCount := by
  unfold State.readKey
  split <;> exact ⟨rfl, rfl, rfl⟩

theorem serviceKeyboard_hidden {s t : State} (h : serviceKeyboard s = .next t) :
    t.halted = s.halted ∧ t.hung = s.hung ∧ t.drawCount = s.drawCount := by
  unfold serviceKeyboard at h
  split at h
  · cases h; exact s.readKey_hidden
  · unfold keyboardCheck at h
    split at h <;> cases h <;> exact ⟨rfl, rfl, rfl⟩
  all_goals cases h; exact ⟨rfl, rfl, rfl⟩

/-- When `Teletype` is refused (R303). -/
theorem State.teletype_refused (s : State) (c : Byte) (e : Refusal) :
    s.teletype c = .refused e ↔ s.cursorOk = false ∧ e = .cursorOutOfRange s.bios.curRow s.bios.curCol := by
  unfold State.teletype State.refuseCursor
  cases s.cursorOk <;> simp [eq_comm]

theorem drawAfter_refused (r : Reg8) (a : Answer) (e : Refusal) : drawAfter r a = .refused e ↔ a = .refused e := by
  cases a <;> simp [drawAfter]

/-- When DOS string output is refused (R303, R332): the cursor is off the screen and a byte is to be printed. -/
theorem dosPrint_refused (n : Nat) (off : Word) (s : State) (e : Refusal) :
    dosPrint (n + 1) off s = .refused e ↔
      s.cursorOk = false ∧ s.memRead8 (lin s.ds off) ≠ 0x24 ∧ e = .cursorOutOfRange s.bios.curRow s.bios.curCol := by
  constructor
  · intro h
    obtain ⟨he, hc⟩ := (dosPrint_stop _ _ _).2 e h
    refine ⟨hc, fun h24 => ?_, he⟩
    unfold dosPrint at h
    rw [if_pos h24] at h
    cases h
  · rintro ⟨hc, h24, rfl⟩
    have ht := (s.teletype_refused (s.memRead8 (lin s.ds off)) _).2 ⟨hc, rfl⟩
    unfold dosPrint
    rw [if_neg h24, ht]

theorem State.cursorOk_false (s : State) :
    s.cursorOk = false ↔ 25 ≤ s.bios.curRow.toNat ∨ 80 ≤ s.bios.curCol.toNat := by
  rw [← Bool.not_eq_true, s.cursorOk_iff]
  omega

/-! ## INT -/

/-- The three ways of INT: a service, an ignored null entry, or the entry through the vector table (R280). -/
theorem execInt_cases (n : Byte) (s : State) :
    (intercepted n = true ∧ execInt n s = service n s) ∨
    (intercepted n = false ∧ (s.params.ivtNullIgnored && s.ivtNull n) = true ∧ execInt n s = .next s) ∨
    (intercepted n = false ∧ (s.params.ivtNullIgnored && s.ivtNull n) = false ∧
      execInt n s = .next (s.enterInterrupt n)) := by
  unfold execInt
  by_cases h : intercepted n = true
  · exact .inl ⟨h, if_pos h⟩
  · have h' : intercepted n = false := by simpa using h
    rw [if_neg h]
    by_cases hz : (s.params.ivtNullIgnored && s.ivtNull n) = true
    · exact .inr (.inl ⟨h', hz, if_pos hz⟩)
    · exact .inr (.inr ⟨h', by simpa using hz, if_neg hz⟩)

theorem intercepted_iff (n : Byte) : intercepted n = true ↔ n ∈ [0x10, 0x13, 0x16, 0x21] := by
  revert n
  decide

theorem ivtAddr_add_two (n : Byte) : ivtAddr n + 2 = BitVec.ofNat 20 (4 * n.toNat + 2) := by
  unfold ivtAddr
  rw [BitVec.ofNat_add]
  rfl

/-- A push keeps the canonical form of memory. -/
theorem State.push16_wf (s : State) (v : Word) (h : Memory.wf s.mem = true) : Memory.wf (s.push16 v).mem = true := by
  unfold State.push16
  exact Memory.wf_write16 _ _ _ h

/-- The entry through the vector table keeps the canonical form of memory. -/
theorem State.enterInterrupt_wf (s : State) (n : Byte) (h : Memory.wf s.mem = true) :
    Memory.wf (s.enterInterrupt n).mem = true := by
  have e : (s.enterInterrupt n).mem = s.pushFrame.mem := rfl
  rw [e, State.pushFrame]
  exact State.push16_wf _ _ (State.push16_wf _ _ (State.push16_wf _ _ h))

/-- What the entry through the vector table can change: SP, the stack words, IF and TF, IP and CS. -/
theorem State.enterInterrupt_rest (s : State) (n : Byte) :
    s.enterInterrupt n = { s with
      sp := s.sp - 2 - 2 - 2, mem := (s.enterInterrupt n).mem, flags := (s.enterInterrupt n).flags
      ip := (s.enterInterrupt n).ip, cs := (s.enterInterrupt n).cs } := by
  simp only [State.enterInterrupt, State.loadVector, State.maskInterrupts, State.pushFrame, State.setFlag, State.push16]

/-- FLAGS after the entry: IF and TF cleared, every other bit kept. -/
theorem State.enterInterrupt_flags (s : State) (n : Byte) (k : Nat) :
    (s.enterInterrupt n).flags.getLsbD k = if k = 8 ∨ k = 9 then false else s.flags.getLsbD k := by
  show (putFlag (putFlag s.flags .interrupt false) .trap false).getLsbD k = _
  rw [getLsbD_putFlag, getLsbD_putFlag]
  simp only [Flag.bit]
  by_cases h8 : k = 8 <;> by_cases h9 : k = 9 <;> simp [h8, h9]

end Sys2Proof.Machine
end

