-- ==== Sys2Proof/Tests/Slice0.lean ====
section
/-! SUPPORT. The author's own tests: ill-formed terms refused, every opcode's word decoded, single steps checked
against the vectors of spec/95_test_vectors.md, and for every statement with hypotheses a state that meets them. -/

namespace Sys2Proof.Tests

open Sys2Proof Sys2Proof.Machine

/-! ## Small states -/

/-- Memory with some bytes put in. -/
def poke (s : State) (bytes : List (Nat × Byte)) : State :=
  { s with mem := bytes.foldl (fun m c => Memory.set m c.1 c.2) s.mem }

/-- The state after reset with a program's bytes at CS:IP (the default start state of spec/95). -/
def boot (s : State) (bytes : List Byte) : State := { s with mem := placeBytes s.mem s.cs s.ip bytes }

/-- The answer is a next state with the property. -/
def isNext (a : Answer) (p : State → Bool) : Bool :=
  match a with
  | .next s => p s
  | _ => false

/-- The answer is this fault. -/
def isFault (a : Answer) (f : Fault) : Bool :=
  match a with
  | .fault g => g == f
  | _ => false

/-- The answer is this refusal. -/
def isRefused (a : Answer) (f : Refusal) : Bool :=
  match a with
  | .refused g => g == f
  | _ => false

/-- CF PF AF ZF SF OF, as spec/95 writes them. -/
def six (s : State) : List Bool :=
  [s.flags.getLsbD 0, s.flags.getLsbD 2, s.flags.getLsbD 4, s.flags.getLsbD 6, s.flags.getLsbD 7, s.flags.getLsbD 11]

/-- The same without AF, for a vector whose AF is a draw. -/
def five (s : State) : List Bool :=
  [s.flags.getLsbD 0, s.flags.getLsbD 2, s.flags.getLsbD 6, s.flags.getLsbD 7, s.flags.getLsbD 11]

/-- The flags of a vector from its row of digits. -/
def bits (l : List Nat) : List Bool := l.map fun n => n == 1

/-- One step of a program from a state with AX given ends with AX and the six flags given. -/
def aluStep (bytes : List Byte) (ax ax' : Word) (f : List Nat) : Bool :=
  isNext (step (boot { State.reset with ax := ax } bytes)) fun t => t.ax == ax' && six t == bits f

/-- The five flags after a logical operation with this result, for either value of the drawn AF. -/
def logicFlagsOk {w : Nat} (f0 : Word) (r : BitVec w) (f : List Nat) : Prop :=
  ∀ af : Bool, five { State.reset with flags := flagsLogic f0 r af } = bits f

/-- One step of a program ends with AX and, up to the draw, the flags of this logical result. -/
def LogicStep {w : Nat} (s : State) (bytes : List Byte) (ax' : Word) (r : BitVec w) : Prop :=
  ∃ t, step (boot s bytes) = .next t ∧ t.ax = ax' ∧ t.flags = flagsLogic s.flags r (Config.freeBit 0)

/-- Reset with the extension opcodes enabled and AX and FLAGS given. -/
def extended (ax flags : Word) : State :=
  { State.reset with ax := ax, flags := flags, params := { launchParams with extAdc := true, extSbb := true, extTest := true } }

/-- One step of a short jump at 0100h with FLAGS given ends at this IP. -/
def jumpStep (op : Byte) (flags ip : Word) : Bool :=
  isNext (step (boot { State.reset with ip := 0x0100, flags := flags } [op, 0x10])) fun t => t.ip == ip && t.flags == flags

/-- The two taken and the two not taken FLAGS words of a row of spec/95 section 2.7. -/
def jumpRow (op : Byte) (t1 t2 n1 n2 : Word) : Bool :=
  jumpStep op t1 0x0112 && jumpStep op t2 0x0112 && jumpStep op n1 0x0102 && jumpStep op n2 0x0102

/-- A ring that holds the given pairs, the oldest in slot 0. -/
def ringOf (keys : List Key) : Ring where
  keys := keys
  head := 0
  tail := keys.length

/-- Reset with the cursor at (row, col). -/
def cursorAt (row col : Byte) : State := { State.reset with bios := { Bios.reset with curRow := row, curCol := col } }

/-! ## Well-formedness -/

theorem test_wf_refuses_xchg_ax_ax : (Instr.xchgAx .ax).wellFormed = false := by decide
theorem test_wf_admits_xchg_ax_cx : (Instr.xchgAx .cx).wellFormed = true := by decide

/-! ## Decoding: every opcode's word, written out from R82, R83 and R88 -/

theorem test_decode_alu :
    decode [0x04, 0x7F] = .ok (.addAl 0x7F, []) ∧ decode [0x05, 0xFF, 0x00] = .ok (.addAx 0x00FF, []) ∧
    decode [0x0C, 0x01] = .ok (.orAl 0x01, []) ∧ decode [0x0D, 0x01, 0x80] = .ok (.orAx 0x8001, []) ∧
    decode [0x24, 0x0F] = .ok (.andAl 0x0F, []) ∧ decode [0x25, 0xFF, 0x00] = .ok (.andAx 0x00FF, []) ∧
    decode [0x2C, 0x10] = .ok (.subAl 0x10, []) ∧ decode [0x2D, 0x34, 0x12] = .ok (.subAx 0x1234, []) ∧
    decode [0x34, 0xAA] = .ok (.xorAl 0xAA, []) ∧ decode [0x35, 0x34, 0x12] = .ok (.xorAx 0x1234, []) ∧
    decode [0x3C, 0x80] = .ok (.cmpAl 0x80, []) ∧ decode [0x3D, 0x05, 0x00] = .ok (.cmpAx 0x0005, []) :=
  ⟨rfl, rfl, rfl, rfl, rfl, rfl, rfl, rfl, rfl, rfl, rfl, rfl⟩

theorem test_decode_extensions :
    decode [0x14, 0x20] = .ok (.adcAl 0x20, []) ∧ decode [0x15, 0xFF, 0xFE] = .ok (.adcAx 0xFEFF, []) ∧
    decode [0x1C, 0x03] = .ok (.sbbAl 0x03, []) ∧ decode [0x1D, 0x00, 0x80] = .ok (.sbbAx 0x8000, []) ∧
    decode [0xA8, 0xF0] = .ok (.testAl 0xF0, []) ∧ decode [0xA9, 0x00, 0xFF] = .ok (.testAx 0xFF00, []) :=
  ⟨rfl, rfl, rfl, rfl, rfl, rfl⟩

theorem test_decode_register_rows :
    decode [0x40] = .ok (.incR16 .ax, []) ∧ decode [0x44] = .ok (.incR16 .sp, []) ∧
    decode [0x49] = .ok (.decR16 .cx, []) ∧ decode [0x4F] = .ok (.decR16 .di, []) ∧
    decode [0x52] = .ok (.pushR16 .dx, []) ∧ decode [0x55] = .ok (.pushR16 .bp, []) ∧
    decode [0x5B] = .ok (.popR16 .bx, []) ∧ decode [0x5E] = .ok (.popR16 .si, []) ∧
    decode [0x91] = .ok (.xchgAx .cx, []) ∧ decode [0x96] = .ok (.xchgAx .si, []) ∧
    decode [0xB4, 0xAB] = .ok (.movR8Imm .ah 0xAB, []) ∧ decode [0xB3, 0x7F] = .ok (.movR8Imm .bl 0x7F, []) ∧
    decode [0xB8, 0x34, 0x12] = .ok (.movR16Imm .ax 0x1234, []) ∧ decode [0xBF, 0x00, 0x01] = .ok (.movR16Imm .di 0x0100, []) :=
  ⟨rfl, rfl, rfl, rfl, rfl, rfl, rfl, rfl, rfl, rfl, rfl, rfl, rfl, rfl⟩

theorem test_decode_jumps :
    decode [0x70, 0x10] = .ok (.jo 0x10, []) ∧ decode [0x71, 0x10] = .ok (.jno 0x10, []) ∧
    decode [0x72, 0x10] = .ok (.jb 0x10, []) ∧ decode [0x73, 0x10] = .ok (.jae 0x10, []) ∧
    decode [0x74, 0xFE] = .ok (.je 0xFE, []) ∧ decode [0x75, 0x7F] = .ok (.jne 0x7F, []) ∧
    decode [0x76, 0x10] = .ok (.jbe 0x10, []) ∧ decode [0x77, 0x10] = .ok (.ja 0x10, []) ∧
    decode [0x78, 0x10] = .ok (.js 0x10, []) ∧ decode [0x79, 0x10] = .ok (.jns 0x10, []) ∧
    decode [0x7A, 0x10] = .ok (.jp 0x10, []) ∧ decode [0x7B, 0x10] = .ok (.jnp 0x10, []) ∧
    decode [0x7C, 0x10] = .ok (.jl 0x10, []) ∧ decode [0x7D, 0x10] = .ok (.jge 0x10, []) ∧
    decode [0x7E, 0x10] = .ok (.jle 0x10, []) ∧ decode [0x7F, 0x10] = .ok (.jg 0x10, []) :=
  ⟨rfl, rfl, rfl, rfl, rfl, rfl, rfl, rfl, rfl, rfl, rfl, rfl, rfl, rfl, rfl, rfl⟩

theorem test_decode_transfer :
    decode [0xC3] = .ok (.ret, []) ∧ decode [0xE2, 0xFB] = .ok (.loop 0xFB, []) ∧
    decode [0xE8, 0xFD, 0xFF] = .ok (.call 0xFFFD, []) ∧ decode [0xEB, 0xFE] = .ok (.jmp 0xFE, []) ∧
    decode [0xCD, 0x80] = .ok (.int 0x80, []) ∧ decode [0xCF] = .ok (.iret, []) :=
  ⟨rfl, rfl, rfl, rfl, rfl, rfl⟩

theorem test_decode_moves_and_stack :
    decode [0x90] = .ok (.nop, []) ∧ decode [0x9C] = .ok (.pushf, []) ∧ decode [0x9D] = .ok (.popf, []) ∧
    decode [0xA0, 0x01, 0x05] = .ok (.movAlMoffs 0x0501, []) ∧ decode [0xA1, 0x10, 0x00] = .ok (.movAxMoffs 0x0010, []) ∧
    decode [0xA2, 0x10, 0x00] = .ok (.movMoffsAl 0x0010, []) ∧ decode [0xA3, 0x00, 0x05] = .ok (.movMoffsAx 0x0500, []) :=
  ⟨rfl, rfl, rfl, rfl, rfl, rfl, rfl⟩

theorem test_decode_flags_and_prefixes :
    decode [0xF4] = .ok (.hlt, []) ∧ decode [0xF8] = .ok (.clc, []) ∧ decode [0xF9] = .ok (.stc, []) ∧
    decode [0xFA] = .ok (.cli, []) ∧ decode [0xFB] = .ok (.sti, []) ∧ decode [0xFC] = .ok (.cld, []) ∧
    decode [0xFD] = .ok (.std, []) ∧ decode [0x26] = .ok (.segEs, []) ∧ decode [0x2E] = .ok (.segCs, []) ∧
    decode [0x36] = .ok (.segSs, []) ∧ decode [0x3E, 0x90] = .ok (.segDs, [0x90]) ∧ decode [0xF0] = .ok (.lock, []) ∧
    decode [0xF2] = .ok (.repne, []) ∧ decode [0xF3] = .ok (.rep, []) :=
  ⟨rfl, rfl, rfl, rfl, rfl, rfl, rfl, rfl, rfl, rfl, rfl, rfl, rfl, rfl⟩

/-- Bytes marked invalid in R88, next to admitted ones, and operand bytes that are missing. -/
theorem test_decode_rejects :
    decode [0x0F] = .error (.invalidOpcode 0x0F) ∧ decode [0x06] = .error (.invalidOpcode 0x06) ∧
    decode [0xC2, 0x00, 0x00] = .error (.invalidOpcode 0xC2) ∧ decode [0xA4] = .error (.invalidOpcode 0xA4) ∧
    decode [0x05, 0x01] = .error (.truncated 0x05) ∧ decode [] = .error .empty :=
  ⟨rfl, rfl, rfl, rfl, rfl, rfl⟩

/-- The host's words: bit 0 is the lowest of the first byte, and bits above nbits are zero. -/
theorem test_decode_table_words :
    decodeTableWord 24 0x1234B8 = some (.movR16Imm .ax 0x1234) ∧ decodeTableWord 8 0xB8 = some (.movR16Imm .ax 0) ∧
    decodeTableWord 16 0x8004 = some (.addAl 0x80) ∧ decodeTableWord 8 0x0F = none := by decide

/-! ## Single steps: the vectors of spec/95 -/

theorem test_add_vectors :
    aluStep [0x04, 0x01] 0x55FF 0x5500 [1, 1, 1, 1, 0, 0] ∧ aluStep [0x04, 0x01] 0x557F 0x5580 [0, 0, 1, 0, 1, 1] ∧
    aluStep [0x04, 0x80] 0x5580 0x5500 [1, 1, 0, 1, 0, 1] ∧ aluStep [0x04, 0x01] 0x550F 0x5510 [0, 0, 1, 0, 0, 0] ∧
    aluStep [0x05, 0x01, 0x00] 0xFFFF 0x0000 [1, 1, 1, 1, 0, 0] ∧ aluStep [0x05, 0x01, 0x00] 0x7FFF 0x8000 [0, 1, 1, 0, 1, 1] ∧
    aluStep [0x05, 0x00, 0x80] 0x8000 0x0000 [1, 1, 0, 1, 0, 1] ∧ aluStep [0x05, 0xFF, 0x00] 0x1234 0x1333 [0, 1, 1, 0, 0, 0] := by
  decide

theorem test_sub_vectors :
    aluStep [0x2C, 0x01] 0x5500 0x55FF [1, 1, 1, 0, 1, 0] ∧ aluStep [0x2C, 0x01] 0x5580 0x557F [0, 0, 1, 0, 0, 1] ∧
    aluStep [0x2C, 0x10] 0x5510 0x5500 [0, 1, 0, 1, 0, 0] ∧ aluStep [0x2C, 0x01] 0x5510 0x550F [0, 1, 1, 0, 0, 0] ∧
    aluStep [0x2D, 0x01, 0x00] 0x0000 0xFFFF [1, 1, 1, 0, 1, 0] ∧ aluStep [0x2D, 0x01, 0x00] 0x8000 0x7FFF [0, 1, 1, 0, 0, 1] ∧
    aluStep [0x2D, 0x34, 0x12] 0x1234 0x0000 [0, 1, 0, 1, 0, 0] := by decide

theorem test_cmp_vectors :
    aluStep [0x3C, 0x20] 0x5510 0x5510 [1, 1, 0, 0, 1, 0] ∧ aluStep [0x3C, 0x01] 0x5580 0x5580 [0, 0, 1, 0, 0, 1] ∧
    aluStep [0x3C, 0x80] 0x5501 0x5501 [1, 1, 0, 0, 1, 1] ∧ aluStep [0x3C, 0x05] 0x5505 0x5505 [0, 1, 0, 1, 0, 0] ∧
    aluStep [0x3D, 0x05, 0x00] 0x0005 0x0005 [0, 1, 0, 1, 0, 0] ∧ aluStep [0x3D, 0xFF, 0xFF] 0x0000 0x0000 [1, 0, 1, 0, 0, 0] := by
  decide

/-- V42 to V50: the results. -/
theorem test_logic_results :
    LogicStep { State.reset with ax := 0x5580 } [0x0C, 0x01] 0x5581 (0x81 : Byte) ∧
    LogicStep { State.reset with ax := 0x8000 } [0x0D, 0x01, 0x00] 0x8001 (0x8001 : Word) ∧
    LogicStep { State.reset with ax := 0x55F0 } [0x24, 0x0F] 0x5500 (0x00 : Byte) ∧
    LogicStep { State.reset with ax := 0x12F3 } [0x25, 0xFF, 0x00] 0x00F3 (0x00F3 : Word) ∧
    LogicStep { State.reset with ax := 0x5555 } [0x34, 0xFF] 0x55AA (0xAA : Byte) ∧
    LogicStep { State.reset with ax := 0x1234 } [0x35, 0x34, 0x12] 0x0000 (0x0000 : Word) :=
  ⟨⟨_, rfl, rfl, rfl⟩, ⟨_, rfl, rfl, rfl⟩, ⟨_, rfl, rfl, rfl⟩, ⟨_, rfl, rfl, rfl⟩, ⟨_, rfl, rfl, rfl⟩, ⟨_, rfl, rfl, rfl⟩⟩

/-- V42 to V51: the flags; V51 starts with CF = OF = 1, which are cleared. -/
theorem test_logic_flags :
    logicFlagsOk 0x0002 (0x81 : Byte) [0, 1, 0, 1, 0] ∧ logicFlagsOk 0x0002 (0x8001 : Word) [0, 0, 0, 1, 0] ∧
    logicFlagsOk 0x0002 (0x00 : Byte) [0, 1, 1, 0, 0] ∧ logicFlagsOk 0x0002 (0x00F3 : Word) [0, 1, 0, 0, 0] ∧
    logicFlagsOk 0x0002 (0xAA : Byte) [0, 1, 0, 1, 0] ∧ logicFlagsOk 0x0803 (0x00 : Byte) [0, 1, 1, 0, 0] := by
  unfold logicFlagsOk
  decide

/-- V55 to V65: ADC and SBB with a carry in. -/
theorem test_adc_sbb_vectors :
    isNext (step (boot (extended 0x00FF 0x0003) [0x14, 0x00])) (fun t => t.ax == 0x0000 && six t == bits [1, 1, 1, 1, 0, 0]) ∧
    isNext (step (boot (extended 0x0010 0x0002) [0x14, 0x20])) (fun t => t.ax == 0x0030 && six t == bits [0, 1, 0, 0, 0, 0]) ∧
    isNext (step (boot (extended 0xFFFF 0x0003) [0x15, 0xFF, 0xFF])) (fun t => t.ax == 0xFFFF && six t == bits [1, 1, 1, 0, 1, 0]) ∧
    isNext (step (boot (extended 0x0005 0x0003) [0x1C, 0x03])) (fun t => t.ax == 0x0001 && six t == bits [0, 0, 0, 0, 0, 0]) ∧
    isNext (step (boot (extended 0x0000 0x0003) [0x1D, 0xFF, 0xFF])) (fun t => t.ax == 0x0000 && six t == bits [1, 1, 1, 1, 0, 0]) ∧
    isNext (step (boot (extended 0x8000 0x0003) [0x1D, 0x00, 0x00])) (fun t => t.ax == 0x7FFF && six t == bits [0, 1, 1, 0, 0, 1]) := by
  decide

/-- V67, V69: TEST writes no register; the flags are those of the AND. -/
theorem test_test_vectors :
    LogicStep (extended 0x000F 0x0003) [0xA8, 0xF0] 0x000F (0x00 : Byte) ∧ logicFlagsOk 0x0003 (0x00 : Byte) [0, 1, 1, 0, 0] ∧
    LogicStep (extended 0x8001 0x0003) [0xA9, 0x00, 0x80] 0x8001 (0x8000 : Word) ∧
    logicFlagsOk 0x0003 (0x8000 : Word) [0, 1, 0, 1, 0] := by
  refine ⟨⟨_, rfl, rfl, rfl⟩, ?_, ⟨_, rfl, rfl, rfl⟩, ?_⟩ <;>
  · unfold logicFlagsOk
    decide

/-- V70: an extension opcode that is not enabled. -/
theorem test_extension_disabled : isFault (step (boot State.reset [0x14, 0x00])) (.invalidOpcode 0x14 0x07C00) := by decide

/-- V75 to V83: INC and DEC keep CF. -/
theorem test_inc_dec_vectors :
    isNext (step (boot { State.reset with ax := 0xFFFF } [0x40])) (fun t => t.ax == 0x0000 && six t == bits [0, 1, 1, 1, 0, 0]) ∧
    isNext (step (boot { State.reset with ax := 0x7FFF, flags := 0x0003 } [0x40]))
      (fun t => t.ax == 0x8000 && six t == bits [1, 1, 1, 0, 1, 1]) ∧
    isNext (step (boot { State.reset with flags := 0x0003 } [0x48])) (fun t => t.ax == 0xFFFF && six t == bits [1, 1, 1, 0, 1, 0]) ∧
    isNext (step (boot { State.reset with sp := 0x0000 } [0x4C])) (fun t => t.sp == 0xFFFF && six t == bits [0, 1, 1, 0, 1, 0]) ∧
    isNext (step (boot { State.reset with cx := 0x00FF } [0x41])) (fun t => t.cx == 0x0100 && six t == bits [0, 1, 1, 0, 0, 0]) := by
  decide

/-- V90 to V94, V99 to V101. -/
theorem test_move_vectors :
    isNext (step (boot { State.reset with ax := 0x1234 } [0xB4, 0xAB])) (fun t => t.ax == 0xAB34) ∧
    isNext (step (boot State.reset [0xBC, 0x00, 0x01])) (fun t => t.sp == 0x0100) ∧
    isNext (step (poke (boot { State.reset with ax := 0x5500 } [0xA0, 0x01, 0x05]) [(0x501, 0xBE)])) (fun t => t.ax == 0x55BE) ∧
    isNext (step (boot { State.reset with ax := 0x1111, si := 0x2222 } [0x96])) (fun t => t.ax == 0x2222 && t.si == 0x1111) ∧
    isNext (step (boot { State.reset with ax := 0x1234 } [0x94])) (fun t => t.ax == 0xFFFE && t.sp == 0x1234) ∧
    isNext (step (boot State.reset [0x90])) (fun t => t.ip == 0x7C01 && t.flags == 0x0002) := by decide

/-- V95, V96: the high byte of a word is one linear address on, modulo 2^20. -/
theorem test_move_word_wrap :
    isNext (step (poke (boot { State.reset with ds := 0x1000 } [0xA1, 0xFF, 0xFF])
      [(0x1FFFF, 0x34), (0x20000, 0x12), (0x10000, 0x99)])) (fun t => t.ax == 0x1234) ∧
    isNext (step (poke (boot { State.reset with ds := 0xF000 } [0xA1, 0xFF, 0xFF]) [(0xFFFFF, 0x34), (0x00000, 0x12)]))
      (fun t => t.ax == 0x1234) := by decide

/-- V97, V98, V102: stores, an override, a read-only page. -/
theorem test_store_vectors :
    isNext (step (boot { State.reset with es := 0x1000, ax := 0x0080 } [0x26, 0xA2, 0x10, 0x00]))
      (fun t => t.memRead8 0x10010 == 0x80 && t.ip == 0x7C04) ∧
    isNext (step (boot { State.reset with ax := 0xBEEF } [0xA3, 0x00, 0x05]))
      (fun t => t.memRead8 0x00500 == 0xEF && t.memRead8 0x00501 == 0xBE) ∧
    isNext (step (boot { State.reset with ax := 0x0080, params := { launchParams with roPages := 1 } } [0xA2, 0x10, 0x00]))
      (fun t => t.memRead8 0x00010 == 0x00 && t.ip == 0x7C03) := by decide

/-- V105 to V108: a word write across a read-only page, under both policies, and at the top of memory. -/
theorem test_word_policy_vectors :
    Memory.read16 (Memory.write16 { launchParams with roPages := BitVec.ofNat 256 (2 ^ 0x10) } [] 0x0FFFF 0xABCD) 0x0FFFF = 0x00CD ∧
    Memory.read16 (Memory.write16 { launchParams with roPages := BitVec.ofNat 256 (2 ^ 0x10), roWordPolicy := .firstByte } []
      0x0FFFF 0xABCD) 0x0FFFF = 0xABCD ∧
    Memory.write16 { launchParams with roPages := BitVec.ofNat 256 (2 ^ 0x0F), roWordPolicy := .firstByte } [] 0x0FFFF 0xABCD = [] ∧
    Memory.write16 launchParams [] 0xFFFFF 0x1234 = [(0x00000, 0x12), (0xFFFFF, 0x34)] := by decide

/-- V4: segment combination. -/
theorem test_lin_vectors :
    lin 0x1234 0x0010 = 0x12350 ∧ lin 0x1235 0x0000 = 0x12350 ∧ lin 0x0000 0xFFFF = 0x0FFFF ∧ lin 0xFFFF 0x0010 = 0x00000 := by
  decide

/-- V110 to V115. -/
theorem test_push_pop_vectors :
    isNext (step (boot { State.reset with sp := 0x0000, ax := 0x1234 } [0x50]))
      (fun t => t.sp == 0xFFFE && t.memRead8 0x0FFFE == 0x34 && t.memRead8 0x0FFFF == 0x12) ∧
    isNext (step (poke (boot { State.reset with sp := 0xFFFF } [0x58]) [(0x0FFFF, 0x34), (0x10000, 0x12)]))
      (fun t => t.ax == 0x1234 && t.sp == 0x0001) ∧
    isNext (step (boot { State.reset with sp := 0x0100 } [0x54])) (fun t => t.sp == 0x00FE && t.memRead16 0x000FE == 0x0100) ∧
    isNext (step (boot { State.reset with sp := 0x0100, params := { launchParams with pushSpValue := .new } } [0x54]))
      (fun t => t.sp == 0x00FE && t.memRead16 0x000FE == 0x00FE) ∧
    isNext (step (poke (boot { State.reset with sp := 0x00FE } [0x5C]) [(0xFE, 0x34), (0xFF, 0x12)])) (fun t => t.sp == 0x1234) ∧
    isNext (step (boot { State.reset with sp := 0x0100, flags := 0x0246 } [0x9C]))
      (fun t => t.sp == 0x00FE && t.memRead16 0x000FE == 0x0246) := by decide

/-- V117: POPF loads the nine flags with a meaning (the other bits are free, and not looked at). -/
theorem test_popf_vector :
    (∃ t, exec .popf (poke { State.reset with sp := 0x00FE } [(0xFE, 0xD5), (0xFF, 0x0F)]) = .next t ∧ t.sp = 0x0100 ∧
      ∀ n ∈ [0, 2, 4, 6, 7, 8, 9, 10, 11], t.flags.getLsbD n = true) := by
  refine ⟨_, rfl, by decide, fun n hn => (loadsFlags_flagsLoad 0x0FD5 n hn).trans ?_⟩
  revert n
  decide

/-- V118: a segment override does not move the stack. -/
theorem test_push_ignores_override :
    isNext (step (boot { State.reset with es := 0x1000, sp := 0x0100, ax := 0x1234 } [0x26, 0x50]))
      (fun t => t.memRead16 0x000FE == 0x1234 && t.memRead16 0x100FE == 0x0000) := by decide

/-- V120 to V127. -/
theorem test_jump_vectors_low :
    jumpRow 0x70 0x0802 0x0882 0x0002 0x0082 ∧ jumpRow 0x71 0x0002 0x0043 0x0802 0x0842 ∧
    jumpRow 0x72 0x0003 0x0043 0x0002 0x0042 ∧ jumpRow 0x73 0x0002 0x0082 0x0003 0x0043 ∧
    jumpRow 0x74 0x0042 0x0043 0x0002 0x0003 ∧ jumpRow 0x75 0x0002 0x0882 0x0042 0x0842 ∧
    jumpRow 0x76 0x0003 0x0042 0x0002 0x0882 ∧ jumpRow 0x77 0x0002 0x0082 0x0003 0x0042 := by decide

/-- V128 to V135. -/
theorem test_jump_vectors_high :
    jumpRow 0x78 0x0082 0x0882 0x0002 0x0802 ∧ jumpRow 0x79 0x0002 0x0802 0x0082 0x0882 ∧
    jumpRow 0x7A 0x0006 0x0046 0x0002 0x0042 ∧ jumpRow 0x7B 0x0002 0x0042 0x0006 0x0046 ∧
    jumpRow 0x7C 0x0082 0x0802 0x0002 0x0882 ∧ jumpRow 0x7D 0x0002 0x0882 0x0082 0x0802 ∧
    jumpRow 0x7E 0x0042 0x0802 0x0002 0x0882 ∧ jumpRow 0x7F 0x0002 0x0882 0x0042 0x0802 := by decide

/-- V137, V138, V140: the ends of a displacement, and a target that wraps. -/
theorem test_jump_corners :
    isNext (step (boot { State.reset with ip := 0x0100, flags := 0x0042 } [0x74, 0x80])) (fun t => t.ip == 0x0082) ∧
    isNext (step (boot { State.reset with ip := 0x0100 } [0x75, 0x7F])) (fun t => t.ip == 0x0181) ∧
    isNext (step (boot { State.reset with ip := 0xFFF0, flags := 0x0042 } [0x74, 0x10])) (fun t => t.ip == 0x0002 && t.cs == 0) := by
  decide

/-- V145 to V150. -/
theorem test_transfer_vectors :
    isNext (step (boot { State.reset with ip := 0xFFF0 } [0xEB, 0x7F])) (fun t => t.ip == 0x0071) ∧
    isNext (step (boot { State.reset with ip := 0x7C06 } [0xE8, 0x01, 0x00]))
      (fun t => t.ip == 0x7C0A && t.sp == 0xFFFC && t.memRead16 0x0FFFC == 0x7C09) ∧
    isNext (step (poke (boot { State.reset with sp := 0xFFFC } [0xC3]) [(0xFFFC, 0x09), (0xFFFD, 0x7C)]))
      (fun t => t.ip == 0x7C09 && t.sp == 0xFFFE) := by decide

/-- V151 to V153: LOOP counts down modulo 2^16 and writes no flag. -/
theorem test_loop_vectors :
    isNext (step (boot { State.reset with ip := 0x7C09, cx := 0x0002 } [0xE2, 0xFB])) (fun t => t.cx == 0x0001 && t.ip == 0x7C06) ∧
    isNext (step (boot { State.reset with ip := 0x7C09, cx := 0x0001 } [0xE2, 0xFB])) (fun t => t.cx == 0x0000 && t.ip == 0x7C0B) ∧
    isNext (step (boot { State.reset with ip := 0x7C09, cx := 0x0000 } [0xE2, 0xFB]))
      (fun t => t.cx == 0xFFFF && t.ip == 0x7C06 && t.flags == 0x0002) := by decide

/-- V160 to V167. -/
theorem test_flag_control_vectors :
    isNext (step (boot { State.reset with flags := 0x0003 } [0xF8])) (fun t => t.flags == 0x0002) ∧
    isNext (step (boot State.reset [0xF9])) (fun t => t.flags == 0x0003) ∧
    isNext (step (boot { State.reset with flags := 0x0202 } [0xFA])) (fun t => t.flags == 0x0002) ∧
    isNext (step (boot State.reset [0xFB])) (fun t => t.flags == 0x0202) ∧
    isNext (step (boot { State.reset with flags := 0x0402 } [0xFC])) (fun t => t.flags == 0x0002) ∧
    isNext (step (boot State.reset [0xFD])) (fun t => t.flags == 0x0402) ∧
    isNext (step (boot State.reset [0xF0, 0xF4])) (fun t => t.halted && t.ip == 0x7C02) ∧
    isFault (step { State.reset with halted := true }) .haltedNoTransition := by decide

/-- V170, V172, V173: INT through the vector table, and through a null entry under both parameters. -/
theorem test_int_vectors :
    isNext (step (poke (boot { State.reset with ip := 0x7C10, flags := 0x0202 } [0xCD, 0x80]) [(0x201, 0x10)]))
      (fun t => t.memRead16 0x0FFFC == 0x0202 && t.memRead16 0x0FFFA == 0x0000 && t.memRead16 0x0FFF8 == 0x7C12 &&
        t.sp == 0xFFF8 && t.flags == 0x0002 && t.cs == 0x0000 && t.ip == 0x1000) ∧
    isNext (step (boot State.reset [0xCD, 0x81])) (fun t => t.ip == 0x7C02 && t.sp == 0xFFFE && t.flags == 0x0002) ∧
    isNext (step (boot { State.reset with params := { launchParams with ivtNullIgnored := false } } [0xCD, 0x81]))
      (fun t => t.ip == 0x0000 && t.sp == 0xFFF8 && t.memRead16 0x0FFF8 == 0x7C02) := by decide

/-- V175: the entry is read after the pushes, one of which wraps. -/
theorem test_int_reads_vector_after_pushes :
    isNext (step (poke (boot { State.reset with sp := 0x0004 } [0xCD, 0x80]) [(0x201, 0x10)]))
      (fun t => t.sp == 0xFFFE && t.memRead16 0x00002 == 0x0002 && t.memRead16 0x0FFFE == 0x7C02 && t.ip == 0x1000) := by decide

/-- V171: IRET, the flags with a meaning only. -/
theorem test_iret_vector :
    ∃ t, exec .iret (poke { State.reset with sp := 0xFFF8 } [(0xFFF8, 0x12), (0xFFF9, 0x7C), (0xFFFC, 0x02), (0xFFFD, 0x02)]) =
      .next t ∧ t.ip = 0x7C12 ∧ t.cs = 0x0000 ∧ t.sp = 0xFFFE ∧ t.flags.getLsbD 9 = true ∧ t.flags.getLsbD 0 = false := by
  refine ⟨_, rfl, by decide, by decide, by decide, ?_, ?_⟩
  · exact (loadsFlags_flagsLoad 0x0202 9 (by decide)).trans (by decide)
  · exact (loadsFlags_flagsLoad 0x0202 0 (by decide)).trans (by decide)

/-- V180 to V184, V186: invalid bytes and prefixes. -/
theorem test_engine_vectors :
    isFault (step (boot State.reset [0x0F])) (.invalidOpcode 0x0F 0x07C00) ∧
    isFault (step (boot State.reset [0x26, 0x88, 0xC0])) (.invalidOpcode 0x88 0x07C01) ∧
    isNext (step (poke (boot { State.reset with es := 0x1000, ds := 0x2000 } [0x26, 0x2E, 0xA0, 0x00, 0x00])
      [(0x00000, 0x11), (0x10000, 0x22), (0x20000, 0x33)])) (fun t => t.ax == 0x0011 && t.ip == 0x7C05) ∧
    isNext (step (boot State.reset [0xF3, 0xF2, 0xF0, 0x90])) (fun t => t.ip == 0x7C04 && t.rep && t.repne) ∧
    isNext (step (poke (boot { State.reset with ss := 0x3000 } [0x36, 0xA1, 0x00, 0x00]) [(0x30000, 0x78), (0x30001, 0x56)]))
      (fun t => t.ax == 0x5678) := by decide

/-- The reset state with a table word placed: the very next step runs it. -/
theorem test_fetch_word :
    isNext (step (State.reset.withFetchWord 24 0x1234B8)) (fun t => t.ax == 0x1234 && t.ip == 0x7C03) ∧
    isNext (step (State.reset.withFetchWord 8 0xB8)) (fun t => t.ax == 0x0000 && t.ip == 0x7C03) := by decide

/-! ## The ModR/M decoder (V190 to V216) -/

/-- The registers of spec/95 section 2.12, displacement bytes at CS:IP. -/
def eaState (disp : List Byte) : State :=
  boot { State.reset with bx := 0x1000, si := 0x0020, di := 0x0030, bp := 0x2000, ss := 0x5000, ds := 0x4000 } disp

theorem test_modrm_vectors :
    ((eaState []).decodeModRM 0x00).1 = .mem 0x4000 0x1020 ∧ ((eaState []).decodeModRM 0x03).1 = .mem 0x5000 0x2030 ∧
    (eaState [0x34, 0x12]).decodeModRM 0x06 = (.mem 0x4000 0x1234, { eaState [0x34, 0x12] with ip := 0x7C02 }) ∧
    ((eaState [0x80]).decodeModRM 0x44).1 = .mem 0x4000 0xFFA0 ∧ ((eaState [0x80]).decodeModRM 0x46).1 = .mem 0x5000 0x1F80 ∧
    ((eaState [0x34, 0x12]).decodeModRM 0x82).1 = .mem 0x5000 0x3254 ∧
    (({ eaState [0x34, 0x12] with segOvr := some .ds } : State).decodeModRM 0x86).1 = .mem 0x4000 0x3234 ∧
    (eaState []).decodeModRM 0xC4 = (.reg 4, eaState []) := by decide

/-- V214, V215: the register of a register-direct operand depends on the width. -/
theorem test_modrm_register_operands :
    ({ State.reset with sp := 0x1234, ax := 0xAB00 } : State).readRM16 (.reg 4) = 0x1234 ∧
    ({ State.reset with sp := 0x1234, ax := 0xAB00 } : State).readRM8 (.reg 4) = 0xAB ∧
    (State.reset.writeRM16 (.mem 0x1000 0x0010) 0xBEEF).memRead16 0x10010 = 0xBEEF ∧
    (State.reset.writeRM8 (.reg 3) 0x7F).bx = 0x007F := by decide

/-! ## Services (V220 to V247) -/

theorem test_teletype_vectors :
    ((cursorAt 0 79).putChar 0x78).bios = { Bios.reset with curRow := 1, curCol := 0 } ∧
    ((cursorAt 0 79).putChar 0x78).readCell 0 79 = (0x78, 0x07) ∧
    ((cursorAt 3 0).putChar 0x08) = cursorAt 3 0 ∧ ((cursorAt 3 7).putChar 0x08) = cursorAt 3 6 ∧
    ((cursorAt 3 3).putChar 0x09) = cursorAt 3 8 ∧ ((cursorAt 3 75).putChar 0x09) = cursorAt 4 0 ∧
    ((cursorAt 3 3).putChar 0x07) = cursorAt 3 3 ∧ ((cursorAt 5 9).putChar 0x0D) = cursorAt 5 0 := by decide

/-- V221, seen through the general law of a scroll: row 1 moves up, the glyph to row 23, row 24 is blank. -/
theorem test_teletype_scroll_cells :
    let s := poke (cursorAt 24 79) [(0xB80A0, 0x5A), (0xB80A1, 0x07)]
    s.teletypeCell 0x78 0 0 = (0x5A, 0x07) ∧ s.teletypeCell 0x78 23 79 = (0x78, 0x07) ∧
    s.teletypeCell 0x78 24 5 = (0x20, 0x07) ∧ teletypeRow 0x78 24 79 = 24 ∧ teletypeCol 0x78 79 = 0 := by decide

/-- V228, V229, V235, V237. -/
theorem test_video_vectors :
    isNext (exec (.int 0x10) { State.reset with ax := 0x0200, dx := 0x050A }) (fun t => t == { cursorAt 5 10 with ax := 0x0200, dx := 0x050A }) ∧
    isNext (exec (.int 0x10) { State.reset with ax := 0x0300, bios := { Bios.reset with curRow := 5, curCol := 10, curStart := 6, curEnd := 7 } })
      (fun t => t.dx == 0x050A && t.cx == 0x0607) ∧
    isNext (exec (.int 0x10) (poke { cursorAt 2 2 with ax := 0x0800 } [(0xB8144, 0x42), (0xB8145, 0x4E)])) (fun t => t.ax == 0x4E42) ∧
    isNext (exec (.int 0x10) { State.reset with ax := 0x5500 }) (fun t => t == { State.reset with ax := 0x5500 }) := by decide

/-- V233, V234: cells written at the cursor; and CX other than 1 is refused (U26). -/
theorem test_video_write_cell_vectors :
    isNext (exec (.int 0x10) { cursorAt 2 2 with ax := 0x0941, bx := 0x004E, cx := 1 })
      (fun t => t.readCell 2 2 == (0x41, 0x4E) && t.bios == (cursorAt 2 2).bios) ∧
    isNext (exec (.int 0x10) (poke { cursorAt 2 2 with ax := 0x0A42, cx := 1 } [(0xB8144, 0x41), (0xB8145, 0x4E)]))
      (fun t => t.readCell 2 2 == (0x42, 0x4E)) ∧
    isRefused (exec (.int 0x10) { cursorAt 2 2 with ax := 0x0941, cx := 2 }) (.repeatCountNotOne 2) := by decide

/-- The screen of V230 and V231. -/
def letters (ax : Word) : State :=
  poke { State.reset with ax := ax, bx := 0x1F00, cx := 0x0000, dx := 0x0201 }
    [(0xB8000, 0x61), (0xB8002, 0x62), (0xB80A0, 0x63), (0xB80A2, 0x64), (0xB8140, 0x65), (0xB8142, 0x66), (0xB8004, 0x21)]

/-- V230, V231: a window scrolled up and down. -/
theorem test_scroll_vectors :
    isNext (exec (.int 0x10) (letters 0x0601)) (fun t => t.memRead8 0xB8000 == 0x63 && t.memRead8 0xB80A2 == 0x66 &&
      t.readCell 2 0 == (0x20, 0x1F) && t.memRead8 0xB8004 == 0x21) ∧
    isNext (exec (.int 0x10) (letters 0x0701)) (fun t => t.readCell 0 1 == (0x20, 0x1F) && t.memRead8 0xB80A0 == 0x61 &&
      t.memRead8 0xB8142 == 0x64) := by decide

/-- V238 to V241: the keyboard. -/
theorem test_keyboard_vectors :
    isNext (exec (.int 0x16) { State.reset with bios := { Bios.reset with kbd := ringOf [⟨0x61, 0x1E⟩, ⟨0x62, 0x30⟩] } })
      (fun t => t.ax == 0x1E61 && t.bios.kbd.keys == [⟨0x62, 0x30⟩]) ∧
    isNext (exec (.int 0x16) State.reset) (fun t => t.ax == 0x0000 && t.flags == 0x0002) ∧
    isNext (exec (.int 0x16) { State.reset with ax := 0x0200, bios := { Bios.reset with shift := 0x03 } }) (fun t => t.ax == 0x0203) ∧
    ({ State.reset with params := { launchParams with kbdCap := 1 }, bios := { Bios.reset with kbd := ringOf [⟨0x61, 0x1E⟩] } } : State).injectKey
      ⟨0x63, 0x2E⟩ =
      { State.reset with params := { launchParams with kbdCap := 1 }, bios := { Bios.reset with kbd := ringOf [⟨0x61, 0x1E⟩] } } := by decide

/-- The indices go round the ring of 16 slots: one pair in the last slot, a second into slot 0, the first read. -/
theorem test_keyboard_indices :
    isNext (exec (.int 0x16) (({ State.reset with bios := { Bios.reset with
        kbd := { keys := [⟨0x61, 0x1E⟩], head := 15, tail := 0 } } } : State).injectKey ⟨0x62, 0x30⟩))
      (fun t => t.ax == 0x1E61 && t.bios.kbd == { keys := [⟨0x62, 0x30⟩], head := 0, tail := 1 }) := by decide

/-- V3: the check with an empty ring, then with a pair. -/
theorem test_keyboard_check_vectors :
    isNext (exec (.int 0x16) { State.reset with ax := 0x0100 }) (fun t => t.ax == 0x0000 && t.flags == 0x0042) ∧
    isNext (exec (.int 0x16) (({ State.reset with ax := 0x0100, flags := 0x0042 } : State).injectKey ⟨0x61, 0x1E⟩))
      (fun t => t.ax == 0x1E61 && t.flags == 0x0002 && t.bios.kbd.keys == [⟨0x61, 0x1E⟩]) := by decide

/-- V242, V243: the disk. -/
theorem test_disk_vectors :
    (∃ t, exec (.int 0x13) { State.reset with ax := 0x0200, flags := 0x0003 } = .next t ∧ t.flags = 0x0002 ∧
      highByte t.ax = 0x00 ∧ t.mem = []) ∧
    isNext (exec (.int 0x13) { State.reset with ax := 0x0855, params := { launchParams with geometry := ⟨0x4F, 0x12, 0x01, 0x02⟩ } })
      (fun t => t.cx == 0x4F12 && t.dx == 0x0102 && t.ax == 0x0055) :=
  ⟨⟨_, rfl, rfl, highByte_withLow 0x0000 _, rfl⟩, by decide⟩

/-- V244 to V247: the DOS services. -/
theorem test_dos_vectors :
    isNext (exec (.int 0x21) { State.reset with ax := 0x0200, dx := 0x0041 })
      (fun t => t.readCell 0 0 == (0x41, 0x07) && t.bios.curCol == 1) ∧
    isNext (exec (.int 0x21) (poke { State.reset with ax := 0x0900, dx := 0x0300 } [(0x300, 0x4F), (0x301, 0x4B), (0x302, 0x24)]))
      (fun t => t.readCell 0 0 == (0x4F, 0x07) && t.readCell 0 1 == (0x4B, 0x07) && t.bios.curCol == 2 && t.hung == false) ∧
    isNext (exec (.int 0x21) { State.reset with ax := 0x0100, bios := { Bios.reset with kbd := ringOf [⟨0x79, 0x15⟩] } })
      (fun t => t.readCell 0 0 == (0x79, 0x07) && t.bios.kbd.keys == []) ∧
    isNext (exec (.int 0x21) { State.reset with ax := 0x4C00 }) (fun t => t.halted) := by decide

/-- R303 and U25: a cursor off the screen, a window off the screen, and an empty window. -/
theorem test_service_refusals :
    isRefused (exec (.int 0x10) { cursorAt 25 0 with ax := 0x0E41 }) (.cursorOutOfRange 25 0) ∧
    isRefused (exec (.int 0x10) { State.reset with ax := 0x0200, dx := 0x0050 }) (.cursorOutOfRange 0 80) ∧
    isRefused (exec (.int 0x10) { State.reset with ax := 0x0600, dx := 0x1900 }) (.windowOutOfRange 25 0) ∧
    isNext (exec (.int 0x10) { State.reset with ax := 0x0600, cx := 0x0100, dx := 0x0050 }) (fun t => t.mem == []) := by decide

/-! ## Each statement's hypotheses can be met -/

theorem test_meets_DecodeOfEncodeIsIdentity : (Instr.addAl 0x7F).WellFormed ∧ (Instr.xchgAx .di).WellFormed := by decide

theorem test_meets_EncodeOfDecodeIsIdentity : decodeBytes 0xA3 0xFF 0xFF = some (.movMoffsAx 0xFFFF) := by decide

/-- Reset with MOV AL, [0005] after one prefix. -/
def prefixed : State := boot State.reset [0x26, 0xA0, 0x05, 0x00]

theorem test_meets_StepRunsTheDecodedInstruction :
    let s := boot State.reset [0xB8, 0x34, 0x12]
    s.hung = false ∧ s.halted = false ∧
    decodeBytes (s.memRead8 (lin s.cs s.ip)) (s.memRead8 (lin s.cs (s.ip + 1))) (s.memRead8 (lin s.cs (s.ip + 2))) =
      some (.movR16Imm .ax 0x1234) ∧ (Instr.movR16Imm .ax 0x1234).toPrefix = none := by decide

theorem test_meets_StepRunsThePrefixedInstruction :
    prefixed.hung = false ∧ prefixed.halted = false ∧ ([.segment .es] : List Prefix).length < 65536 ∧
    BeginsWithPrefixes prefixed [.segment .es] ∧
    decodeBytes (prefixed.memRead8 (lin prefixed.cs (prefixed.ip + BitVec.ofNat 16 1)))
      (prefixed.memRead8 (lin prefixed.cs (prefixed.ip + BitVec.ofNat 16 1 + 1)))
      (prefixed.memRead8 (lin prefixed.cs (prefixed.ip + BitVec.ofNat 16 1 + 2))) = some (.movAlMoffs 0x0005) ∧
    (Instr.movAlMoffs 0x0005).toPrefix = none := by
  refine ⟨by decide, by decide, by decide, ?_, by decide, by decide⟩
  intro k h
  obtain rfl : k = 0 := by simpa using h
  exact show prefixOfByte (prefixed.memRead8 (lin prefixed.cs (prefixed.ip + BitVec.ofNat 16 0))) = some (.segment .es) by decide

/-- A byte marked invalid after a prefix, not named and named by MODRM_OPCODES. -/
theorem test_meets_InvalidByteEndsTheStep :
    let s := boot State.reset [0x26, 0xFF]
    let t : State := { s with params := { launchParams with modrmOpcodes := [0xFF] } }
    s.hung = false ∧ s.halted = false ∧ BeginsWithPrefixes s [.segment .es] ∧ BeginsWithPrefixes t [.segment .es] ∧
    (s.memRead8 (lin s.cs (s.ip + BitVec.ofNat 16 1))).toNat ∈ dashBytes ∧
    s.memRead8 (lin s.cs (s.ip + BitVec.ofNat 16 1)) ∉ s.params.modrmOpcodes ∧
    t.memRead8 (lin t.cs (t.ip + BitVec.ofNat 16 1)) ∈ t.params.modrmOpcodes := by
  have key : prefixOfByte ((boot State.reset [0x26, 0xFF]).memRead8 (lin 0 (0x7C00 + BitVec.ofNat 16 0))) =
      some (.segment .es) := by decide
  refine ⟨rfl, rfl, ?_, ?_, by decide, by decide, by decide⟩ <;>
  · intro k h
    obtain rfl : k = 0 := by simpa using h
    exact key

/-- A list of cells that holds one byte at each of `n` addresses from `lo` on. -/
def filled (lo n : Nat) (v : Byte) : Memory := (List.range' lo n).map fun a => (a, v)

theorem get_filled (v : Byte) (a n : Nat) : ∀ lo : Nat, lo ≤ a → a < lo + n → Memory.get (filled lo n v) a = v := by
  induction n with
  | zero => intro lo h1 h2; omega
  | succ n ih =>
    intro lo h1 h2
    show (if lo = a then v else Memory.get (filled (lo + 1) n v) a) = v
    split
    · rfl
    · exact ih (lo + 1) (by omega) (by omega)

/-- V185: a code segment of 65536 prefixes; and a state where the loop stops. -/
theorem test_meets_EndlessPrefixesHang :
    let s : State := { State.reset with cs := 0x1000, mem := filled 0x10000 0x10000 0x26 }
    s.hung = false ∧ s.halted = false ∧ (∀ o : Word, (prefixOfByte (s.memRead8 (lin s.cs o))).isSome) ∧
    (∃ o : Word, prefixOfByte (State.reset.memRead8 (lin State.reset.cs o)) = none) := by
  refine ⟨rfl, rfl, fun o => ?_, ⟨0, by decide⟩⟩
  have h : (lin 0x1000 o).toNat = 0x10000 + o.toNat := by
    unfold lin
    rw [BitVec.toNat_ofNat]
    have := o.isLt
    show (4096 * 16 + o.toNat) % 2 ^ 20 = _
    omega
  have e : State.memRead8 { State.reset with cs := 0x1000, mem := filled 0x10000 0x10000 0x26 } (lin 0x1000 o) = 0x26 := by
    show Memory.get (filled 0x10000 0x10000 0x26) (lin 0x1000 o).toNat = 0x26
    rw [h]
    have := o.isLt
    exact get_filled _ _ _ _ (by omega) (by omega)
  show (prefixOfByte (State.memRead8 { State.reset with cs := 0x1000, mem := filled 0x10000 0x10000 0x26 } (lin 0x1000 o))).isSome
  rw [e]
  rfl

/-- For StepKeepsTheInvariant and StepKeepsSegmentsAndParameters: a state with the invariant, and its next state. -/
theorem test_meets_step_rules : State.reset.Inv ∧ (boot State.reset [0x90]).Inv ∧
    ∃ t, step (boot State.reset [0x90]) = .next t :=
  ⟨⟨rfl, by decide, by decide⟩, ⟨by decide, by decide, by decide⟩, _, rfl⟩

theorem test_meets_HaltingIsByHltOrDosExitAndFinal :
    (∃ t, exec .nop { State.reset with halted := true } = .next t) ∧
    (∃ t, exec (.int 0x21) { State.reset with ax := 0x4C00 } = .next t ∧ t.halted = true) ∧
    ({ State.reset with halted := true } : State).hung = false := ⟨⟨_, rfl⟩, ⟨_, rfl, rfl⟩, rfl⟩

/-- For the four rules about what an instruction writes. -/
theorem test_meets_write_rules :
    (∃ t, exec (.addAl 1) State.reset = .next t) ∧ mayWriteReg (.addAl 1) .sp = false ∧
    mayWriteFlagBit (.addAl 1) 9 = false ∧ mayStore (.addAl 1) = false ∧ mayMoveIp (.addAl 1) = false ∧
    mayDraw (.addAl 1) = false ∧ (Instr.addAl 1).toPrefix = none := ⟨⟨_, rfl⟩, rfl, rfl, rfl, rfl, rfl, rfl⟩

theorem test_meets_ByteWriteThenRead :
    ({ launchParams with roPages := BitVec.ofNat 256 (2 ^ 0x12) } : Params).roPages.getLsbD ((0x12FFF : Addr).toNat / 4096) = true ∧
    launchParams.roPages.getLsbD ((0xFFFFF : Addr).toNat / 4096) = false := by decide

theorem test_meets_EnabledExtensionResults :
    (extended 0 0).params.extAdc = true ∧ (extended 0 0).params.extSbb = true ∧ (extended 0 0).params.extTest = true := by decide

theorem test_meets_DisabledExtensionIsInvalidOpcode :
    State.reset.params.modrmOpcodes = [] ∧ State.reset.params.extAdc = false ∧ State.reset.params.extSbb = false ∧
    State.reset.params.extTest = false := by decide

/-- Operands at the ends of the signed range. -/
theorem test_meets_OverflowAndAuxFlagsMeanWhatTheySay :
    (∃ t, exec (.addAl 0x01) { State.reset with ax := 0x007F } = .next t ∧ t.flags.getLsbD 11 = true) ∧
    (∃ t, exec (.subAl 0x80) { State.reset with ax := 0x007F } = .next t ∧ t.flags.getLsbD 11 = true) ∧
    (∃ t, exec (.addAx 0xFFFF) { State.reset with ax := 0x8000 } = .next t ∧ t.flags.getLsbD 11 = true) ∧
    (∃ t, exec (.subAx 0x8000) State.reset = .next t ∧ t.flags.getLsbD 11 = true) :=
  ⟨⟨_, rfl, by decide⟩, ⟨_, rfl, by decide⟩, ⟨_, rfl, by decide⟩, ⟨_, rfl, by decide⟩⟩

/-- V5 of P5: 80h and 01h compare one way unsigned and the other way signed; and two equal words. -/
theorem test_meets_CompareThenJumpComparesOperands :
    (∃ t, exec (.cmpAl 0x01) { State.reset with ax := 0x0080 } = .next t ∧
      isNext (exec (.jl 0x02) t) (fun u => u.ip == 0x7C02) ∧ isNext (exec (.jb 0x02) t) (fun u => u.ip == 0x7C00)) ∧
    (∃ t, exec (.cmpAx 0xFFFF) { State.reset with ax := 0xFFFF } = .next t ∧ isNext (exec (.je 0x02) t) (fun u => u.ip == 0x7C02)) :=
  ⟨⟨_, rfl, by decide, by decide⟩, ⟨_, rfl, by decide⟩⟩

theorem test_meets_CallThenReturnComesBack :
    WordWritable State.reset.params (lin State.reset.ss (State.reset.sp - 2)) ∧ ∃ t, exec (.call 0xFFFD) State.reset = .next t :=
  ⟨⟨by decide, by decide⟩, _, rfl⟩

/-- A writable stack word, and one that lies in read-only pages. -/
theorem test_meets_PushThenPopRoundTrip :
    (∃ t u, exec (.pushR16 .ax) State.reset = .next t ∧ exec (.popR16 .bx) t = .next u) ∧
    WordWritable State.reset.params (lin State.reset.ss (State.reset.sp - 2)) ∧
    roAt { launchParams with roPages := BitVec.ofNat 256 (2 ^ 0x0F) } (lin 0 (0xFFFE - 2)) = true ∧
    roAt { launchParams with roPages := BitVec.ofNat 256 (2 ^ 0x0F) } (lin 0 (0xFFFE - 2) + 1) = true :=
  ⟨⟨_, _, rfl, rfl⟩, ⟨by decide, by decide⟩, by decide, by decide⟩

/-- Reset with a handler in entry FF, the last of the table. -/
def hooked : State := poke State.reset [(0x3FD, 0x10)]

/-- For InterruptEntersThroughTheVectorTable, InterruptThroughNullEntryIsIgnored and InterruptThenReturnComesBack. -/
theorem test_meets_interrupt_rules :
    (0xFF : Byte) ∉ ([0x10, 0x13, 0x16, 0x21] : List Byte) ∧ hooked.memRead16 (BitVec.ofNat 20 (4 * (0xFF : Byte).toNat)) ≠ 0 ∧
    State.reset.params.ivtNullIgnored = true ∧ State.reset.memRead16 (BitVec.ofNat 20 (4 * (0xFF : Byte).toNat)) = 0 ∧
    State.reset.memRead16 (BitVec.ofNat 20 (4 * (0xFF : Byte).toNat + 2)) = 0 ∧
    WordWritable hooked.params (lin hooked.ss (hooked.sp - 2)) ∧ WordWritable hooked.params (lin hooked.ss (hooked.sp - 4)) ∧
    WordWritable hooked.params (lin hooked.ss (hooked.sp - 6)) ∧ ∃ t, exec (.int 0xFF) hooked = .next t :=
  ⟨by decide, by decide, by decide, by decide, by decide, ⟨by decide, by decide⟩, ⟨by decide, by decide⟩,
    ⟨by decide, by decide⟩, _, rfl⟩

/-- A service that answers, and a function number that no service lists, for each vector. -/
theorem test_meets_ServicesKeepTheRest :
    (∃ t, exec (.int 0x16) State.reset = .next t) ∧
    ∀ n ∈ ([0x10, 0x13, 0x16, 0x21] : List Byte), (0xFF : Byte).toNat ∉ listedFunctions n := ⟨⟨_, rfl⟩, by decide⟩

theorem test_meets_KeyboardServiceResults :
    let s : State := { State.reset with ax := 0x0100, bios := { Bios.reset with kbd := ringOf [⟨0x61, 0x1E⟩] } }
    s.ax.extractLsb' 8 8 = (0x01 : Byte) ∧ s.bios.kbd.keys = ⟨0x61, 0x1E⟩ :: [] ∧ State.reset.bios.kbd.keys = [] ∧
    State.reset.ax.extractLsb' 8 8 = (0x00 : Byte) ∧ (0x0200 : Word).extractLsb' 8 8 = (0x02 : Byte) := by decide

theorem test_meets_DiskServiceResults :
    (0x0000 : Word).extractLsb' 8 8 = (0x00 : Byte) ∧ (0x0200 : Word).extractLsb' 8 8 = (0x02 : Byte) ∧
    (0x0300 : Word).extractLsb' 8 8 = (0x03 : Byte) ∧ (0x0800 : Word).extractLsb' 8 8 = (0x08 : Byte) := by decide

/-- The last cell of the screen, and CX = 1. -/
theorem test_meets_VideoCursorAndCellResults :
    let s : State := { cursorAt 24 79 with ax := 0x0941, cx := 1, dx := 0x184F }
    s.ax.extractLsb' 8 8 = (0x09 : Byte) ∧ s.cx = 1 ∧ s.bios.curRow.toNat < 25 ∧ s.bios.curCol.toNat < 80 ∧
    (s.dx.extractLsb' 8 8).toNat < 25 ∧ (s.dx.extractLsb' 0 8).toNat < 80 := by decide

/-- The text buffer is writable after reset. -/
theorem test_meets_TextWritable : TextWritable State.reset.params := by
  intro k _
  show (0 : BitVec 256).getLsbD _ = false
  simp

/-- The whole screen as a window, and an empty window. -/
theorem test_meets_SetModeAndScrollResults :
    let s : State := { State.reset with ax := 0x0618, cx := 0x0000, dx := 0x184F }
    s.ax.extractLsb' 8 8 = (0x06 : Byte) ∧ (s.cx.extractLsb' 8 8).toNat ≤ (s.dx.extractLsb' 8 8).toNat ∧
    (s.cx.extractLsb' 0 8).toNat ≤ (s.dx.extractLsb' 0 8).toNat ∧ (s.dx.extractLsb' 8 8).toNat < 25 ∧
    (s.dx.extractLsb' 0 8).toNat < 80 ∧ ((0x0000 : Word).extractLsb' 8 8).toNat < ((0x0100 : Word).extractLsb' 8 8).toNat := by decide

theorem test_meets_TeletypeResults :
    let s : State := { cursorAt 24 79 with ax := 0x0E0A }
    s.bios.curRow.toNat < 25 ∧ s.bios.curCol.toNat < 80 ∧ TextWritable s.params ∧ s.ax.extractLsb' 8 8 = (0x0E : Byte) :=
  ⟨by decide, by decide, test_meets_TextWritable, by decide⟩

theorem test_meets_DosCharacterServiceResults :
    let s : State := { cursorAt 24 79 with ax := 0x0100, bios := { Bios.reset with curRow := 24, curCol := 79, kbd := ringOf [⟨0x79, 0x15⟩] } }
    s.bios.curRow.toNat < 25 ∧ s.bios.curCol.toNat < 80 ∧ s.ax.extractLsb' 8 8 = (0x01 : Byte) ∧ s.bios.kbd.keys = ⟨0x79, 0x15⟩ :: [] ∧
    State.reset.bios.kbd.keys = [] ∧ State.reset.params.dosInputEmpty = .echoNul := by decide

/-- "OK$" in memory, and, after reset, a data segment that holds no '$' and lies below the text buffer. -/
theorem test_meets_DosStringServiceResults :
    let s : State := poke { State.reset with ax := 0x0900, dx := 0x0300 } [(0x300, 0x4F), (0x301, 0x4B), (0x302, 0x24)]
    s.ax.extractLsb' 8 8 = (0x09 : Byte) ∧ 0x24 ∉ ([0x4F, 0x4B] : List Byte) ∧ s.memRead8 (lin s.ds (s.dx + BitVec.ofNat 16 0)) = 0x4F ∧
    s.memRead8 (lin s.ds (s.dx + BitVec.ofNat 16 1)) = 0x4B ∧ s.memRead8 (lin s.ds (s.dx + BitVec.ofNat 16 2)) = 0x24 ∧
    (∀ k : Nat, k ≤ 2 → inTextBuffer s.params (lin s.ds (s.dx + BitVec.ofNat 16 k)) = false) ∧
    ∀ o : Word, State.reset.memRead8 (lin State.reset.ds o) ≠ 0x24 ∧ inTextBuffer State.reset.params (lin State.reset.ds o) = false := by
  refine ⟨by decide, by decide, by decide, by decide, by decide, ?_, fun o => ⟨?_, ?_⟩⟩
  · intro k hk
    interval_cases k <;> decide
  · show (0x00 : Byte) ≠ 0x24
    decide
  · show decide ((lin 0x0000 o - 0xB8000).toNat < 4000) = false
    have := o.isLt
    rw [decide_eq_false_iff_not]
    unfold lin
    show ¬ (BitVec.ofNat 20 (0 * 16 + o.toNat) - 0xB8000).toNat < 4000
    rw [BitVec.toNat_sub, BitVec.toNat_ofNat]
    show ¬ (2 ^ 20 - 0xB8000 + (0 * 16 + o.toNat) % 2 ^ 20) % 2 ^ 20 < 4000
    omega

/-- A refusal of each kind. -/
theorem test_meets_ServicesRefuseOnlyUnspecifiedCases :
    exec (.int 0x10) { State.reset with ax := 0x0200, dx := 0x1900 } = .refused (.cursorOutOfRange 25 0) ∧
    exec (.int 0x10) { State.reset with ax := 0x0700, dx := 0x0050 } = .refused (.windowOutOfRange 0 80) ∧
    exec (.int 0x10) { State.reset with ax := 0x0A41 } = .refused (.repeatCountNotOne 0) ∧
    exec (.int 0x10) { cursorAt 25 0 with ax := 0x0E41 } = .refused (.cursorOutOfRange 25 0) ∧
    exec (.int 0x10) { cursorAt 0 80 with ax := 0x0941, cx := 1 } = .refused (.cursorOutOfRange 0 80) ∧
    exec (.int 0x21) { cursorAt 25 0 with ax := 0x0100 } = .refused (.cursorOutOfRange 25 0) ∧
    exec (.int 0x21) { cursorAt 25 0 with ax := 0x0900 } = .refused (.cursorOutOfRange 25 0) ∧
    exec (.adcAl 0) { State.reset with params := { launchParams with modrmOpcodes := [0x14] } } =
      .refused (.modrmOpcodeWithoutRule 0x14 (lin 0 0x7BFE)) := ⟨rfl, rfl, rfl, rfl, rfl, rfl, rfl, rfl⟩

/-- What stops just short of each refusal: the last row and column, an empty window off the screen, CX = 1, and a
'$' first with the cursor off the screen. -/
theorem test_services_go_on :
    isNext (exec (.int 0x10) { State.reset with ax := 0x0200, dx := 0x184F }) (fun t => t.bios.curRow == 24 && t.bios.curCol == 79) ∧
    isNext (exec (.int 0x10) { State.reset with ax := 0x0600, cx := 0x3000, dx := 0x2050 }) (fun t => t == { State.reset with
      ax := 0x0600, cx := 0x3000, dx := 0x2050 }) ∧
    isNext (exec (.int 0x10) { State.reset with ax := 0x0A41, cx := 1 }) (fun t => t.memRead8 0xB8000 == 0x41) ∧
    isNext (exec (.int 0x21) (poke { cursorAt 25 0 with ax := 0x0900 } [(0, 0x24)])) (fun t => t.hung == false) := by decide

/-- One ModR/M byte for each clause. -/
theorem test_meets_ModRmDecoderResults :
    (0xFF : Byte).toNat / 64 = 3 ∧ (0x06 : Byte).toNat / 64 = 0 ∧ (0x06 : Byte).toNat % 8 = 6 ∧ (0x07 : Byte).toNat / 64 = 0 ∧
    (0x07 : Byte).toNat % 8 ≠ 6 ∧ (0x46 : Byte).toNat / 64 = 1 ∧ (0x86 : Byte).toNat / 64 = 2 := by decide

/-- A ring with room and a full one; a file that ends at the top of memory, one byte more, and a read-only page
bypassed. -/
theorem test_meets_HostInjectionAndLoadResults :
    State.reset.Inv ∧ State.reset.bios.kbd.keys.length < State.reset.params.kbdCap ∧
    ({ launchParams with kbdCap := 0 } : Params).kbdCap ≤ State.reset.bios.kbd.keys.length ∧
    0xFFFFF + ([0xAA] : List Byte).length ≤ 0x100000 ∧ 0x100000 < 0xFFFFF + ([0xAA, 0xBB] : List Byte).length ∧
    (∀ i : Nat, i < 1 → roAt State.reset.params (BitVec.ofNat 20 (0xFFFFF + i)) = false) ∧
    ({ launchParams with loaderRoPolicy := .bypass } : Params).loaderRoPolicy = .bypass := by
  refine ⟨⟨rfl, by decide, by decide⟩, by decide, by decide, by decide, by decide, ?_, rfl⟩
  intro i hi
  obtain rfl : i = 0 := by omega
  decide

end Sys2Proof.Tests
end

/-! ## Scope (spec/00_scope.md): what reset leaves, and what no step writes -/

namespace Sys2Proof.Machine

/-! ### Reset -/

/-- Every general register but SP is `RESET_REGS` at reset, and SP is `RESET_SP` (R42, R43). -/
theorem State.reset_reg16 (r : Reg16) : State.reset.reg16 r = if r = .sp then 0xFFFE else 0x0000 := by
  cases r <;> rfl

/-- Nothing is written at reset, so every byte reads as `MEM_INIT` (R71). -/
theorem State.reset_memRead8 (a : Addr) : State.reset.memRead8 a = 0x00 := rfl

/-- Settles O11: each field by computation, the registers and memory by the two lemmas above. -/
theorem resetLeavesTheNamedValues : Obligations.ResetLeavesTheNamedValues := by
  unfold Obligations.ResetLeavesTheNamedValues
  refine ⟨rfl, rfl, rfl, rfl, rfl, rfl, rfl, ?interruptFlag, rfl, State.reset_reg16, rfl, rfl, rfl, rfl,
    State.reset_memRead8, ?cyclesBiosParams⟩
  case interruptFlag => decide
  case cyclesBiosParams => and_intros <;> rfl

/-! ### The part of the state that no step writes -/

/-- DS, ES, SS (R26), the pending-interrupt fields (R33) and the launch parameters with the read-only mask (R8, R64). -/
def State.fixedPart (s : State) : Word × Word × Word × Bool × Byte × Params :=
  (s.ds, s.es, s.ss, s.pend, s.pendVec, s.params)

theorem State.fixedPart_eq_iff (s t : State) : t.fixedPart = s.fixedPart ↔
    t.ds = s.ds ∧ t.es = s.es ∧ t.ss = s.ss ∧ t.pend = s.pend ∧ t.pendVec = s.pendVec ∧ t.params = s.params := by
  simp [State.fixedPart]

@[simp] theorem State.setReg16_fixedPart (s : State) (r : Reg16) (v : Word) :
    (s.setReg16 r v).fixedPart = s.fixedPart := by
  simp [State.fixedPart]

@[simp] theorem State.setReg8_fixedPart (s : State) (r : Reg8) (v : Byte) :
    (s.setReg8 r v).fixedPart = s.fixedPart :=
  s.setReg16_fixedPart _ _

@[simp] theorem State.recordPrefix_fixedPart (s : State) (p : Prefix) :
    (s.recordPrefix p).fixedPart = s.fixedPart := by
  simp [State.fixedPart]

@[simp] theorem State.jumpIf_fixedPart (s : State) (c : Bool) (d : Byte) :
    (s.jumpIf c d).fixedPart = s.fixedPart := by
  cases c <;> rfl

theorem State.consumePrefixes_fixedPart {n : Nat} {s t : State} (h : State.consumePrefixes n s = some t) :
    t.fixedPart = s.fixedPart := by
  rw [(State.consumePrefixes_some n s t h).2]
  rfl

theorem ServiceChange.fixedPart {s t : State} (h : ServiceChange s t) : t.fixedPart = s.fixedPart := by
  rw [h.rest]
  rfl

theorem State.enterInterrupt_fixedPart (s : State) (n : Byte) : (s.enterInterrupt n).fixedPart = s.fixedPart := by
  rw [s.enterInterrupt_rest n]
  rfl

/-! ### What an instruction and a step that go on have done -/

/-- InvalidOpcode stops the step, as a fault or as a refusal (R117, R140). -/
theorem State.raiseInvalidOpcode_ne_next (s t : State) (op : Byte) (addr : Addr) :
    s.raiseInvalidOpcode op addr ≠ .next t := by
  unfold State.raiseInvalidOpcode
  split <;> exact nofun

/-- An extension form goes on only where it is enabled (R119). -/
theorem extension_next {enabled : Bool} {s t u : State} {op : Byte} {n : Nat}
    (h : (if enabled then .next u else s.raiseInvalidBack op n) = .next t) : t = u := by
  cases enabled with
  | true => cases h; rfl
  | false => exact absurd h (s.raiseInvalidOpcode_ne_next t op _)

theorem execInt_fixedPart {n : Byte} {s t : State} (h : execInt n s = .next t) : t.fixedPart = s.fixedPart := by
  obtain ⟨-, e⟩ | ⟨-, -, e⟩ | ⟨-, -, e⟩ := execInt_cases n s <;> rw [e] at h
  · exact (service_next h).fixedPart
  · cases h; rfl
  · cases h; exact s.enterInterrupt_fixedPart n

/-- No instruction writes the fixed part: a meaning that can only go on by what its state update writes, an
extension form in the case that it is enabled, INT by what its service or its entry can change. -/
theorem exec_fixedPart {i : Instr} {s t : State} (h : exec i s = .next t) : t.fixedPart = s.fixedPart := by
  cases i with
  | addAl _ | addAx _ | subAl _ | subAx _ | cmpAl _ | cmpAx _ | orAl _ | orAx _ | andAl _ | andAx _ | xorAl _
  | xorAx _ => cases h; rfl
  | adcAl _ | adcAx _ | sbbAl _ | sbbAx _ | testAl _ | testAx _ => rw [extension_next h]; rfl
  | incR16 r | decR16 r => cases h; exact s.setReg16_fixedPart r _
  | jo _ | jno _ | jb _ | jae _ | je _ | jne _ | jbe _ | ja _ | js _ | jns _ | jp _ | jnp _ | jl _ | jge _ | jle _
  | jg _ => cases h; exact s.jumpIf_fixedPart _ _
  | loop _ => cases h; exact State.jumpIf_fixedPart _ _ _
  | jmp _ | call _ | ret | iret | hlt | nop => cases h; rfl
  | pushR16 _ | pushf | popf => cases h; rfl
  | popR16 r => cases h; exact s.popped.setReg16_fixedPart r _
  | movR8Imm r _ => cases h; exact s.setReg8_fixedPart r _
  | movR16Imm r _ => cases h; exact s.setReg16_fixedPart r _
  | xchgAx r => cases h; exact State.setReg16_fixedPart _ r _
  | movAlMoffs _ | movAxMoffs _ | movMoffsAl _ | movMoffsAx _ => cases h; rfl
  | clc | stc | cli | sti | cld | std => cases h; rfl
  | segEs | segCs | segSs | segDs | lock | repne | rep => cases h; rfl
  | int n => exact execInt_fixedPart h

/-- Past its prefixes a step goes on only through an instruction that does, and then draws the cycle counter
(R112, R117). -/
theorem runOpcode_next {s t : State} (h : runOpcode s = .next t) : ∃ (i : Instr) (u : State),
    s.fetchInstr = some i ∧ exec i (s.advanceIp i.length) = .next u ∧ t = u.drawCycles := by
  unfold runOpcode at h
  split at h
  next => exact absurd h (s.raiseInvalidOpcode_ne_next t _ _)
  next i hi =>
    cases he : exec i (s.advanceIp i.length) with
    | next u => rw [he] at h; cases h; exact ⟨i, u, hi, he, rfl⟩
    | fault f => rw [he] at h; cases h
    | refused e => rw [he] at h; cases h

/-- The three ways a step has a next state: hung before it, hung by endless prefixes, or an instruction run on the
state past its prefixes and its own bytes (R110, R112, R116). -/
theorem step_next_cases {s t : State} (h : step s = .next t) :
    (s.hung = true ∧ t = s) ∨
    (s.hung = false ∧ s.halted = false ∧ State.consumePrefixes prefixFuel s.clearPrefixes = none ∧ t = s.hang) ∨
    ∃ (p : State) (i : Instr) (u : State), s.hung = false ∧ s.halted = false ∧
      State.consumePrefixes prefixFuel s.clearPrefixes = some p ∧ p.fetchInstr = some i ∧
      exec i (p.advanceIp i.length) = .next u ∧ t = u.drawCycles := by
  cases hh : s.hung with
  | true =>
    rw [step_of_hung hh] at h
    cases h
    exact .inl ⟨rfl, rfl⟩
  | false =>
    cases hl : s.halted with
    | true => rw [step_of_halted hh hl] at h; cases h
    | false =>
      cases hc : State.consumePrefixes prefixFuel s.clearPrefixes with
      | none =>
        rw [step_of_endless hh hl hc] at h
        cases h
        exact .inr (.inl ⟨rfl, rfl, rfl, rfl⟩)
      | some p =>
        rw [step_of_consumePrefixes hh hl hc] at h
        obtain ⟨i, u, hi, he, rfl⟩ := runOpcode_next h
        exact .inr (.inr ⟨p, i, u, rfl, rfl, rfl, hi, he, rfl⟩)

theorem step_fixedPart {s t : State} (h : step s = .next t) : t.fixedPart = s.fixedPart := by
  obtain ⟨-, rfl⟩ | ⟨-, -, -, rfl⟩ | ⟨p, i, u, -, -, hp, -, hu, rfl⟩ := step_next_cases h
  · rfl
  · rfl
  · calc u.drawCycles.fixedPart
      _ = u.fixedPart := rfl
      _ = (p.advanceIp i.length).fixedPart := exec_fixedPart hu
      _ = p.fixedPart := rfl
      _ = s.clearPrefixes.fixedPart := State.consumePrefixes_fixedPart hp
      _ = s.fixedPart := rfl

/-- Settles O14: a step's prefixes, instruction and cycle draw each leave the fixed part. -/
theorem stepKeepsSegmentsAndParameters : Obligations.StepKeepsSegmentsAndParameters := fun s t h =>
  (s.fixedPart_eq_iff t).1 (step_fixedPart h)

end Sys2Proof.Machine

/-! ## State (spec/10_state.md): what an instruction may write, the machine's invariant, and halting -/

namespace Sys2Proof.Machine

/-! ### All state but general registers, FLAGS, memory and the fixed part -/

/-- IP, CS, `halted`, the BIOS context, the recorded prefixes, the cycle counter and the model's own fields (R25, R26,
R31, R32, R34, R36). -/
def State.control (s : State) : Word × Word × Bool × Bios × Option SegReg × Bool × Bool × Nat × Nat × Bool :=
  (s.ip, s.cs, s.halted, s.bios, s.segOvr, s.rep, s.repne, s.cycles, s.drawCount, s.hung)

theorem State.control_eq_iff (s t : State) : t.control = s.control ↔
    t.ip = s.ip ∧ t.cs = s.cs ∧ t.halted = s.halted ∧ t.bios = s.bios ∧ t.segOvr = s.segOvr ∧ t.rep = s.rep ∧
    t.repne = s.repne ∧ t.cycles = s.cycles ∧ t.drawCount = s.drawCount ∧ t.hung = s.hung := by
  simp [State.control]

@[simp] theorem State.setReg16_control (s : State) (r : Reg16) (v : Word) : (s.setReg16 r v).control = s.control := by
  simp [State.control]

/-- A conditional jump writes IP only (R231). -/
theorem State.jumpIf_control (s : State) (c : Bool) (d : Byte) :
    (s.jumpIf c d).control = ({ s with ip := (s.jumpIf c d).ip } : State).control := by
  cases c <;> rfl

/-- What the instruction `i` leaves of `control` on its way from `s` to `t`, by the tables of R25, R26, R31, R32, R34
and R36. -/
structure KeepsControl (i : Instr) (s t : State) : Prop where
  ip : mayMoveIp i = false → t.ip = s.ip
  halted : i ≠ .hlt → i ≠ .int 0x21 → t.halted = s.halted
  cs : (∀ n : Byte, n ∉ [0x10, 0x13, 0x16, 0x21] → i ≠ .int n) → i ≠ .iret → t.cs = s.cs
  bios : i ≠ .int 0x10 → i ≠ .int 0x16 → i ≠ .int 0x21 → t.bios = s.bios
  prefixes : i.toPrefix = none → t.segOvr = s.segOvr ∧ t.rep = s.rep ∧ t.repne = s.repne
  draws : mayDraw i = false → t.drawCount = s.drawCount
  hung : i ≠ .int 0x21 → t.hung = s.hung
  cycles : t.cycles = s.cycles

theorem KeepsControl.of_control_eq {i : Instr} {s t : State} (h : t.control = s.control) : KeepsControl i s t := by
  obtain ⟨hip, hcs, hhalted, hbios, hseg, hrep, hrepne, hcycles, hdraw, hhung⟩ := (s.control_eq_iff t).1 h
  exact ⟨fun _ => hip, fun _ _ => hhalted, fun _ _ => hcs, fun _ _ _ => hbios, fun _ => ⟨hseg, hrep, hrepne⟩,
    fun _ => hdraw, fun _ => hhung, hcycles⟩

/-- An instruction that the table of R25 lists may have moved IP. -/
theorem KeepsControl.of_ip {i : Instr} {s t : State} (hi : mayMoveIp i = true)
    (h : t.control = ({ s with ip := t.ip } : State).control) : KeepsControl i s t :=
  { KeepsControl.of_control_eq (i := i) h with ip := fun hi' => absurd (hi.symm.trans hi') (by decide) }

/-- IRET may have moved IP and written CS (R285). -/
theorem KeepsControl.of_return {s : State} : KeepsControl .iret s s.returnFromInterrupt :=
  { KeepsControl.of_control_eq (i := .iret) (s := { s with ip := s.stackTop, cs := s.popped.stackTop })
      (t := s.returnFromInterrupt) rfl with
    ip := nofun, cs := fun _ hi => absurd rfl hi }

/-- HLT halts (R266). -/
theorem KeepsControl.of_halt {s : State} : KeepsControl .hlt s { s with halted := true } :=
  { KeepsControl.of_control_eq (i := .hlt) (s := { s with halted := true }) (t := { s with halted := true }) rfl with
    halted := fun hi => absurd rfl hi }

/-- A logical operation takes the draw of AF (R193). -/
theorem KeepsControl.of_draw {i : Instr} {s t : State} (hi : mayDraw i = true)
    (h : t.control = ({ s with drawCount := t.drawCount } : State).control) : KeepsControl i s t :=
  { KeepsControl.of_control_eq (i := i) h with draws := fun hi' => absurd (hi.symm.trans hi') (by decide) }

/-- The rows of R94 record themselves (R115). -/
theorem KeepsControl.of_prefix {i : Instr} {s t : State} (hi : i.toPrefix ≠ none)
    (h : t.control = ({ s with segOvr := t.segOvr, rep := t.rep, repne := t.repne } : State).control) :
    KeepsControl i s t :=
  { KeepsControl.of_control_eq (i := i) h with prefixes := fun hi' => absurd hi' hi }

/-- A service that leaves `halted`, `hung` and the draws leaves all of `control` but the BIOS context. -/
theorem ServiceChange.control {s t : State} (h : ServiceChange s t) :
    t.control = ({ s with
      bios := t.bios, drawCount := t.drawCount, halted := t.halted, hung := t.hung } : State).control := by
  rw [h.rest]
  rfl

/-- What an intercepted INT leaves of `control`: which vector it is tells which of the service's fields may change
(R31, R36; log entries 9, 11). -/
theorem service_keepsControl {n : Byte} {s t : State} (hn : n ∈ [0x10, 0x13, 0x16, 0x21])
    (h : service n s = .next t) : KeepsControl (.int n) s t := by
  have base := KeepsControl.of_control_eq (i := .int n) (service_next h).control
  simp only [List.mem_cons, List.not_mem_nil, or_false] at hn
  obtain rfl | rfl | rfl | rfl := hn
  · obtain ⟨hhalted, hhung, hdraw⟩ := serviceVideo_hidden h
    exact { base with
      halted := fun _ _ => hhalted, hung := fun _ => hhung, draws := fun _ => hdraw, bios := fun hi => absurd rfl hi }
  · obtain ⟨hbios, hhalted, hhung⟩ := serviceDisk_hidden h
    exact { base with
      halted := fun _ _ => hhalted, hung := fun _ => hhung, bios := fun _ _ _ => hbios, draws := nofun }
  · obtain ⟨hhalted, hhung, hdraw⟩ := serviceKeyboard_hidden h
    exact { base with
      halted := fun _ _ => hhalted, hung := fun _ => hhung, draws := fun _ => hdraw, bios := fun _ hi => absurd rfl hi }
  · exact { base with
      halted := fun _ hi => absurd rfl hi, hung := fun hi => absurd rfl hi, draws := nofun
      bios := fun _ _ hi => absurd rfl hi }

/-- The entry through the vector table writes IP and CS only (R283). -/
theorem State.enterInterrupt_keepsControl (s : State) {n : Byte} (hn : n ∉ [0x10, 0x13, 0x16, 0x21]) :
    KeepsControl (.int n) s (s.enterInterrupt n) := by
  have h : (s.enterInterrupt n).control =
      ({ s with ip := (s.enterInterrupt n).ip, cs := (s.enterInterrupt n).cs } : State).control := by
    rw [s.enterInterrupt_rest n]
    rfl
  exact { KeepsControl.of_control_eq (i := .int n) h with
    ip := fun hi => absurd hn (of_decide_eq_false hi)
    cs := fun hi => absurd rfl (hi n hn) }

theorem execInt_keepsControl {n : Byte} {s t : State} (h : execInt n s = .next t) : KeepsControl (.int n) s t := by
  obtain ⟨hn, e⟩ | ⟨-, -, e⟩ | ⟨hn, -, e⟩ := execInt_cases n s <;> rw [e] at h
  · exact service_keepsControl ((intercepted_iff n).1 hn) h
  · cases h; exact .of_control_eq rfl
  · cases h
    exact s.enterInterrupt_keepsControl fun hm => absurd (((intercepted_iff n).2 hm).symm.trans hn) (by decide)

/-- What every instruction leaves of `control`: jumps write IP, logical operations draw, prefixes are recorded, HLT
halts, IRET writes IP and CS, INT is `execInt_keepsControl`, and the rest write none of it. -/
theorem exec_keepsControl {i : Instr} {s t : State} (h : exec i s = .next t) : KeepsControl i s t := by
  cases i with
  | addAl _ | addAx _ | subAl _ | subAx _ | cmpAl _ | cmpAx _ => cases h; exact .of_control_eq rfl
  | orAl _ | orAx _ | andAl _ | andAx _ | xorAl _ | xorAx _ => cases h; exact .of_draw rfl rfl
  | adcAl _ | adcAx _ | sbbAl _ | sbbAx _ => rw [extension_next h]; exact .of_control_eq rfl
  | testAl _ | testAx _ => rw [extension_next h]; exact .of_draw rfl rfl
  | incR16 r | decR16 r => cases h; exact .of_control_eq (s.setReg16_control r _)
  | jo _ | jno _ | jb _ | jae _ | je _ | jne _ | jbe _ | ja _ | js _ | jns _ | jp _ | jnp _ | jl _ | jge _ | jle _
  | jg _ => cases h; exact .of_ip rfl (s.jumpIf_control _ _)
  | loop _ => cases h; exact .of_ip rfl (State.jumpIf_control _ _ _)
  | jmp _ | call _ | ret => cases h; exact .of_ip rfl rfl
  | iret => cases h; exact .of_return
  | hlt => cases h; exact .of_halt
  | nop | pushR16 _ | pushf | popf => cases h; exact .of_control_eq rfl
  | popR16 r => cases h; exact .of_control_eq (s.popped.setReg16_control r _)
  | movR8Imm r _ => cases h; exact .of_control_eq (s.setReg16_control _ _)
  | movR16Imm r _ => cases h; exact .of_control_eq (s.setReg16_control r _)
  | xchgAx r => cases h; exact .of_control_eq (State.setReg16_control _ r _)
  | movAlMoffs _ | movAxMoffs _ | movMoffsAl _ | movMoffsAx _ => cases h; exact .of_control_eq rfl
  | clc | stc | cli | sti | cld | std => cases h; exact .of_control_eq rfl
  | segEs | segCs | segSs | segDs | lock | repne | rep => cases h; exact .of_prefix nofun rfl
  | int n => exact execInt_keepsControl h

/-- Settles O19: the tables of `exec_keepsControl`, and the fixed part that no instruction writes. -/
theorem onlyListedInstructionsWriteOtherState : Obligations.OnlyListedInstructionsWriteOtherState := by
  intro i s t h
  obtain ⟨hip, hhalted, hcs, hbios, hprefixes, hdraws, hhung, hcycles⟩ := exec_keepsControl h
  obtain ⟨hds, hes, hss, hpend, hpendVec, hparams⟩ := (s.fixedPart_eq_iff t).1 (exec_fixedPart h)
  exact ⟨hip, hhalted, hcs, hbios, hprefixes, hdraws, hhung, hds, hes, hss, hcycles, hpend, hpendVec, hparams⟩

/-! ### General registers -/

theorem State.reg16_setReg16_ne (s : State) {r q : Reg16} (v : Word) (h : q ≠ r) :
    (s.setReg16 r v).reg16 q = s.reg16 q := by
  rw [State.reg16_setReg16, if_neg h]

/-- What is written beside the registers is not seen in them. -/
theorem State.reg16_congr {s t : State} (h : t = { s with
    ip := t.ip, cs := t.cs, flags := t.flags, halted := t.halted, segOvr := t.segOvr, rep := t.rep, repne := t.repne
    mem := t.mem, bios := t.bios, drawCount := t.drawCount, hung := t.hung }) (q : Reg16) : t.reg16 q = s.reg16 q := by
  rw [h]
  cases q <;> rfl

/-- A state that is `s` with one register written, up to what is no register, has the other registers of `s`. -/
theorem State.reg16_of_written {s t : State} {r q : Reg16} (hq : q ≠ r)
    (h : ∀ q, t.reg16 q = (s.setReg16 r (t.reg16 r)).reg16 q) : t.reg16 q = s.reg16 q :=
  (h q).trans (s.reg16_setReg16_ne _ hq)

theorem State.jumpIf_reg16 (s : State) (c : Bool) (d : Byte) (q : Reg16) : (s.jumpIf c d).reg16 q = s.reg16 q := by
  cases c
  · rfl
  · exact State.reg16_congr rfl q

/-- A service writes no general register but AX, CX and DX (R300). -/
theorem ServiceChange.reg16 {s t : State} (h : ServiceChange s t) {q : Reg16} (hax : q ≠ .ax) (hcx : q ≠ .cx)
    (hdx : q ≠ .dx) : t.reg16 q = s.reg16 q := by
  calc t.reg16 q
    _ = (((s.setReg16 .ax t.ax).setReg16 .cx t.cx).setReg16 .dx t.dx).reg16 q := by
      rw [h.rest]; exact State.reg16_congr rfl q
    _ = s.reg16 q := by simp [State.reg16_setReg16, hax, hcx, hdx]

theorem execInt_reg16 {n : Byte} {s t : State} (h : execInt n s = .next t) {q : Reg16}
    (hq : mayWriteReg (.int n) q = false) : t.reg16 q = s.reg16 q := by
  obtain ⟨hsp, hax, hcx, hdx⟩ : q ≠ .sp ∧ q ≠ .ax ∧ q ≠ .cx ∧ q ≠ .dx := by simpa [mayWriteReg] using hq
  obtain ⟨-, e⟩ | ⟨-, -, e⟩ | ⟨-, -, e⟩ := execInt_cases n s <;> rw [e] at h
  · exact (service_next h).reg16 hax hcx hdx
  · cases h; rfl
  · cases h
    rw [s.enterInterrupt_rest n]
    exact State.reg16_of_written (r := .sp) hsp (State.reg16_congr rfl)

/-- Settles O16, by the register that each meaning writes: AX, SP, CX or the operand's. -/
theorem onlyListedInstructionsWriteARegister : Obligations.OnlyListedInstructionsWriteARegister := by
  intro i s t q h hq
  cases i with
  | addAl _ | addAx _ | subAl _ | subAx _ | orAl _ | orAx _ | andAl _ | andAx _ | xorAl _ | xorAx _ =>
    cases h
    exact State.reg16_of_written (r := .ax) (of_decide_eq_false hq) (State.reg16_congr rfl)
  | adcAl _ | adcAx _ | sbbAl _ | sbbAx _ =>
    rw [extension_next h]
    exact State.reg16_of_written (r := .ax) (of_decide_eq_false hq) (State.reg16_congr rfl)
  | testAl _ | testAx _ => rw [extension_next h]; exact State.reg16_congr rfl q
  | cmpAl _ | cmpAx _ => cases h; exact State.reg16_congr rfl q
  | incR16 r | decR16 r =>
    cases h
    exact (State.reg16_congr (s := s.setReg16 r _) rfl q).trans (s.reg16_setReg16_ne _ (of_decide_eq_false hq))
  | jo _ | jno _ | jb _ | jae _ | je _ | jne _ | jbe _ | ja _ | js _ | jns _ | jp _ | jnp _ | jl _ | jge _ | jle _
  | jg _ => cases h; exact s.jumpIf_reg16 _ _ q
  | jmp _ | hlt | nop => cases h; exact State.reg16_congr rfl q
  | loop _ =>
    cases h
    exact (State.jumpIf_reg16 (s.setReg16 .cx _) _ _ q).trans (s.reg16_setReg16_ne _ (of_decide_eq_false hq))
  | pushR16 _ | pushf | popf | call _ | ret | iret =>
    cases h
    exact State.reg16_of_written (r := .sp) (of_decide_eq_false hq) (State.reg16_congr rfl)
  | popR16 r =>
    cases h
    obtain ⟨hsp, hr⟩ : q ≠ .sp ∧ q ≠ r := by simpa [mayWriteReg] using hq
    exact (s.popped.reg16_setReg16_ne _ hr).trans (State.reg16_of_written (r := .sp) hsp (State.reg16_congr rfl))
  | movR8Imm r _ => cases h; exact s.reg16_setReg16_ne _ (of_decide_eq_false hq)
  | movR16Imm r _ => cases h; exact s.reg16_setReg16_ne _ (of_decide_eq_false hq)
  | xchgAx r =>
    cases h
    obtain ⟨hax, hr⟩ : q ≠ .ax ∧ q ≠ r := by simpa [mayWriteReg] using hq
    exact (State.reg16_setReg16_ne _ _ hr).trans (s.reg16_setReg16_ne _ hax)
  | movAlMoffs _ | movAxMoffs _ => cases h; exact s.reg16_setReg16_ne (r := .ax) _ (of_decide_eq_false hq)
  | movMoffsAl _ | movMoffsAx _ => cases h; exact State.reg16_congr rfl q
  | clc | stc | cli | sti | cld | std => cases h; exact State.reg16_congr rfl q
  | segEs | segCs | segSs | segDs | lock | repne | rep => cases h; exact State.reg16_congr rfl q
  | int n => exact execInt_reg16 h hq

/-! ### FLAGS -/

/-- The flag engine writes the six status bits only (R196). -/
theorem getLsbD_putStatus_of_notMem {w : Nat} (f : Word) (r : BitVec w) (cf ovf af : Bool) {n : Nat}
    (hn : n ∉ [0, 2, 4, 6, 7, 11]) : (putStatus f r cf ovf af).getLsbD n = f.getLsbD n := by
  obtain ⟨-, -, -, -, -, -, hrest⟩ := statusBits_putStatus f r cf ovf af
  exact hrest n hn

/-- Restoring CF after the flag engine leaves five bits written (R197). -/
theorem getLsbD_restoreCarry_of_notMem {w : Nat} (f : Word) (r : BitVec w) (cf ovf af : Bool) {n : Nat}
    (hn : n ∉ [2, 4, 6, 7, 11]) :
    (putFlag (putStatus f r cf ovf af) .carry (getFlag f .carry)).getLsbD n = f.getLsbD n := by
  rw [getLsbD_putFlag]
  split
  next h0 => rw [h0]; rfl
  next h0 => exact getLsbD_putStatus_of_notMem f r cf ovf af fun hm => (List.mem_cons.1 hm).elim h0 hn

theorem getLsbD_putFlag_ne (f : Word) {n : Flag} {k : Nat} (b : Bool) (h : k ≠ n.bit) :
    (putFlag f n b).getLsbD k = f.getLsbD k := by
  rw [getLsbD_putFlag, if_neg h]

@[simp] theorem State.jumpIf_flags (s : State) (c : Bool) (d : Byte) : (s.jumpIf c d).flags = s.flags := by
  cases c <;> rfl

theorem execInt_flags {n : Byte} {s t : State} (h : execInt n s = .next t) {k : Nat}
    (hk : mayWriteFlagBit (.int n) k = false) : t.flags.getLsbD k = s.flags.getLsbD k := by
  obtain ⟨h0, h6, h8, h9⟩ : k ≠ 0 ∧ k ≠ 6 ∧ k ≠ 8 ∧ k ≠ 9 := by simpa [mayWriteFlagBit] using hk
  obtain ⟨-, e⟩ | ⟨-, -, e⟩ | ⟨-, -, e⟩ := execInt_cases n s <;> rw [e] at h
  · exact (service_next h).flags k h0 h6
  · cases h; rfl
  · cases h
    rw [s.enterInterrupt_flags, if_neg (by simp [h8, h9])]

/-- Settles O17: the flag engine writes the status bits, a flag control its bit, POPF and IRET all of FLAGS, INT what
`execInt_flags` says, and no other meaning writes FLAGS. -/
theorem onlyListedInstructionsWriteAFlag : Obligations.OnlyListedInstructionsWriteAFlag := by
  intro i s t k h hk
  cases i with
  | addAl _ | addAx _ | subAl _ | subAx _ | cmpAl _ | cmpAx _ | orAl _ | orAx _ | andAl _ | andAx _ | xorAl _
  | xorAx _ => cases h; exact getLsbD_putStatus_of_notMem _ _ _ _ _ (of_decide_eq_false hk)
  | adcAl _ | adcAx _ | sbbAl _ | sbbAx _ | testAl _ | testAx _ =>
    rw [extension_next h]
    exact getLsbD_putStatus_of_notMem _ _ _ _ _ (of_decide_eq_false hk)
  | incR16 _ | decR16 _ => cases h; exact getLsbD_restoreCarry_of_notMem _ _ _ _ _ (of_decide_eq_false hk)
  | clc | stc | cli | sti | cld | std => cases h; exact getLsbD_putFlag_ne _ _ (of_decide_eq_false hk)
  | popf | iret => cases hk
  | jo _ | jno _ | jb _ | jae _ | je _ | jne _ | jbe _ | ja _ | js _ | jns _ | jp _ | jnp _ | jl _ | jge _ | jle _
  | jg _ => cases h; rw [State.jumpIf_flags]
  | loop _ => cases h; rw [State.jumpIf_flags]; rfl
  | jmp _ | hlt | nop | call _ | ret | pushR16 _ | pushf => cases h; rfl
  | popR16 r => cases h; rw [State.setReg16_flags]; rfl
  | movR8Imm r _ => cases h; exact congrArg (·.getLsbD k) (s.setReg16_flags _ _)
  | movR16Imm r _ => cases h; rw [State.setReg16_flags]
  | xchgAx r => cases h; rw [State.setReg16_flags]; rfl
  | movAlMoffs _ | movAxMoffs _ | movMoffsAl _ | movMoffsAx _ => cases h; rfl
  | segEs | segCs | segSs | segDs | lock | repne | rep => cases h; rfl
  | int n => exact execInt_flags h hk

/-! ### Halting (R31, R111, R266, R333) -/

theorem exec_int_dos (s : State) : exec (.int 0x21) s = serviceDos s := rfl

/-- Teletype output prints; it never halts. -/
theorem TeletypeChange.halted {s t : State} (h : TeletypeChange s t) : t.halted = s.halted := by
  rw [h.rest]

theorem State.teletype_halted {s t : State} {c : Byte} (h : s.teletype c = .next t) : t.halted = s.halted :=
  (State.teletype_next h).2.halted

/-- Of the DOS services program exit alone halts (R31, R333). -/
theorem serviceDos_halted {s t : State} (h : serviceDos s = .next t) (hne : s.reg8 .ah ≠ 0x4C) :
    t.halted = s.halted := by
  unfold serviceDos at h
  split at h
  · unfold dosInput at h
    split at h <;> obtain ⟨u, hu, rfl⟩ := drawAfter_next h
    · cases hu; exact s.readKey_hidden.1
    · exact (State.teletype_halted hu).trans s.readKey_hidden.1
  · obtain ⟨u, hu, rfl⟩ := drawAfter_next h
    exact (State.teletype_halted hu :)
  · obtain ⟨u, hu, ht⟩ := dosPrint_next _ _ _ _ h
    have hu' : u.halted = s.halted := hu.elim (congrArg State.halted) TeletypeChange.halted
    obtain rfl | rfl := ht
    · exact hu'
    · exact hu'
  next hah => exact absurd (BitVec.eq_of_toNat_eq hah) hne
  · cases h; rfl

theorem exec_keeps_halted {i : Instr} {s t : State} (h : exec i s = .next t) (hs : s.halted = true) :
    t.halted = true := by
  by_cases hhlt : i = .hlt
  · subst hhlt; cases h; rfl
  by_cases hint : i = .int 0x21
  · subst hint; exact (serviceDos_next h).halted hs
  · exact ((exec_keepsControl h).halted hhlt hint).trans hs

theorem exec_sets_halted {i : Instr} {s t : State} (h : exec i s = .next t) (hs : s.halted = false)
    (ht : t.halted = true) : i = .hlt ∨ (i = .int 0x21 ∧ s.reg8 .ah = 0x4C) := by
  by_contra! hne
  obtain ⟨hhlt, hdos⟩ := hne
  have hsame : t.halted = s.halted := by
    by_cases hint : i = .int 0x21
    · subst hint; exact serviceDos_halted h (hdos rfl)
    · exact (exec_keepsControl h).halted hhlt hint
  rw [hs, ht] at hsame
  cases hsame

theorem run_of_halted (n : Nat) {s : State} (h : s.halted = true) : run n s = .next s := by
  cases n with
  | zero => rfl
  | succ n => rw [run, if_pos h]

/-- Settles O15: the two ways to halt from the frame of `halted`, the end of a run from the guards of `step` and
`run`. -/
theorem haltingIsByHltOrDosExitAndFinal : Obligations.HaltingIsByHltOrDosExitAndFinal := by
  refine ⟨fun s => rfl, fun i s t => exec_keeps_halted, fun i s t h hs ht => ?_, fun s t hhalted hhung => ?_,
    fun s n => run_of_halted n⟩
  · rw [← reg8_ah]
    exact exec_sets_halted h hs ht
  · rw [step_of_halted hhung hhalted]
    exact nofun

/-! ### The invariant (R36, R48, R325) -/

/-- The invariant speaks of memory, the BIOS context and the parameters only. -/
theorem State.Inv.of_eq {s t : State} (h : s.Inv) (hmem : t.mem = s.mem) (hbios : t.bios = s.bios)
    (hparams : t.params = s.params) : t.Inv where
  memory := hmem ▸ h.memory
  cursor := hbios ▸ h.cursor
  ring := by rw [hbios, hparams]; exact h.ring

/-- A service keeps the invariant: a cursor off the screen is refused (log entry 18). -/
theorem ServiceChange.inv {s t : State} (h : ServiceChange s t) (hs : s.Inv) : t.Inv where
  memory := h.wf hs.memory
  cursor := h.cursor hs.cursor
  ring := by rw [h.params]; exact h.ring hs.ring

theorem State.enterInterrupt_inv (s : State) (n : Byte) (hs : s.Inv) : (s.enterInterrupt n).Inv where
  memory := s.enterInterrupt_wf n hs.memory
  cursor := by rw [s.enterInterrupt_rest n]; exact hs.cursor
  ring := by rw [s.enterInterrupt_rest n]; exact hs.ring

theorem execInt_inv {n : Byte} {s t : State} (h : execInt n s = .next t) (hs : s.Inv) : t.Inv := by
  obtain ⟨-, e⟩ | ⟨-, -, e⟩ | ⟨-, -, e⟩ := execInt_cases n s <;> rw [e] at h
  · exact (service_next h).inv hs
  · cases h; exact hs
  · cases h; exact s.enterInterrupt_inv n hs

theorem State.setReg16_wf (s : State) (r : Reg16) (v : Word) (h : Memory.wf s.mem = true) :
    Memory.wf (s.setReg16 r v).mem = true := by
  rw [State.setReg16_mem]
  exact h

theorem State.jumpIf_wf (s : State) (c : Bool) (d : Byte) (h : Memory.wf s.mem = true) :
    Memory.wf (s.jumpIf c d).mem = true := by
  cases c <;> exact h

/-- Every instruction keeps memory canonical: a store through the memory primitives does, and the others but INT do
not write it. -/
theorem exec_wf {i : Instr} {s t : State} (h : exec i s = .next t) (hs : Memory.wf s.mem = true)
    (hi : ∀ n, i ≠ .int n) : Memory.wf t.mem = true := by
  cases i with
  | movMoffsAl _ => cases h; exact Memory.wf_write8 _ _ _ hs
  | movMoffsAx _ => cases h; exact Memory.wf_write16 _ _ _ hs
  | pushR16 _ | pushf | call _ => cases h; exact s.push16_wf _ hs
  | addAl _ | addAx _ | subAl _ | subAx _ | cmpAl _ | cmpAx _ | orAl _ | orAx _ | andAl _ | andAx _ | xorAl _
  | xorAx _ => cases h; exact hs
  | adcAl _ | adcAx _ | sbbAl _ | sbbAx _ | testAl _ | testAx _ => rw [extension_next h]; exact hs
  | incR16 r | decR16 r => cases h; exact s.setReg16_wf r _ hs
  | jo _ | jno _ | jb _ | jae _ | je _ | jne _ | jbe _ | ja _ | js _ | jns _ | jp _ | jnp _ | jl _ | jge _ | jle _
  | jg _ => cases h; exact s.jumpIf_wf _ _ hs
  | loop _ => cases h; exact State.jumpIf_wf _ _ _ hs
  | jmp _ | ret | iret | hlt | nop | popf => cases h; exact hs
  | popR16 r => cases h; exact s.popped.setReg16_wf r _ hs
  | movR8Imm r _ => cases h; exact s.setReg16_wf _ _ hs
  | movR16Imm r _ => cases h; exact s.setReg16_wf r _ hs
  | xchgAx r => cases h; exact State.setReg16_wf _ r _ (s.setReg16_wf .ax _ hs)
  | movAlMoffs _ | movAxMoffs _ => cases h; exact hs
  | clc | stc | cli | sti | cld | std => cases h; exact hs
  | segEs | segCs | segSs | segDs | lock | repne | rep => cases h; exact hs
  | int n => exact absurd rfl (hi n)

/-- Every instruction keeps the invariant: beside INT none writes the BIOS context or the parameters. -/
theorem exec_inv {i : Instr} {s t : State} (h : exec i s = .next t) (hs : s.Inv) : t.Inv := by
  by_cases hi : ∃ n, i = .int n
  · obtain ⟨n, rfl⟩ := hi
    exact execInt_inv h hs
  · have hi' : ∀ n, i ≠ .int n := fun n hn => hi ⟨n, hn⟩
    have hbios : t.bios = s.bios := (exec_keepsControl h).bios (hi' _) (hi' _) (hi' _)
    obtain ⟨-, -, -, -, -, hparams⟩ := (s.fixedPart_eq_iff t).1 (exec_fixedPart h)
    exact ⟨exec_wf h hs.memory hi', hbios ▸ hs.cursor, by rw [hbios, hparams]; exact hs.ring⟩

/-- Consuming prefixes keeps the invariant: it writes IP and what it records. -/
theorem State.consumePrefixes_inv {n : Nat} {s t : State} (h : State.consumePrefixes n s = some t) (hs : s.Inv) :
    t.Inv := by
  obtain ⟨-, e⟩ := State.consumePrefixes_some n s t h
  rw [e]
  exact hs.of_eq rfl rfl rfl

/-- Settles O13: a hung or hanging step leaves what the invariant speaks of, and in any other step the prefixes, the
instruction and the cycle draw each keep it. -/
theorem stepKeepsTheInvariant : Obligations.StepKeepsTheInvariant := by
  intro s t hs h
  obtain ⟨-, rfl⟩ | ⟨-, -, -, rfl⟩ | ⟨p, i, u, -, -, hp, -, hu, rfl⟩ := step_next_cases h
  · exact hs
  · exact hs.of_eq rfl rfl rfl
  · have hp : p.Inv := State.consumePrefixes_inv hp (hs.of_eq rfl rfl rfl)
    have hu : u.Inv := exec_inv hu (hp.of_eq rfl rfl rfl)
    exact hu.of_eq rfl rfl rfl

/-- Settles O12: memory is empty, the cursor at the origin and the ring empty (log entries 1, 5, 21). -/
theorem resetMeetsTheInvariant : Obligations.ResetMeetsTheInvariant where
  memory := Memory.wf_reset
  cursor := by decide
  ring := by decide

/-- Settles O10. -/
theorem resetEntersAtBootOffset : Obligations.ResetEntersAtBootOffset := rfl

/-! ### Prefixes (R32, R112, R115) -/

/-- Settles O7, by induction on the list: the rest of it starts from the state that has recorded its head. -/
theorem lastSegmentOverrideWins : Obligations.LastSegmentOverrideWins := by
  intro ps
  induction ps with
  | nil => intro s; simp
  | cons p ps ih =>
    intro s
    rw [List.foldl_cons, ih]
    cases p <;> simp [State.recordPrefix, segmentOf, List.getLast?_cons]

/-- The opcode that a state's three bytes at CS:IP decode to is run on the state past it (R112). -/
theorem stepEnds_runOpcode {p : State} {i : Instr}
    (hd : decodeBytes (p.memRead8 (lin p.cs p.ip)) (p.memRead8 (lin p.cs (p.ip + 1)))
      (p.memRead8 (lin p.cs (p.ip + 2))) = some i) :
    StepEnds (exec i (p.advanceIp i.length)) (runOpcode p) := by
  have hf : p.fetchInstr = some i := by
    rw [← hd]
    unfold State.fetchInstr State.codeByte
    rw [show p.ip + 0 = p.ip from BitVec.add_zero _]
  unfold runOpcode
  rw [hf]
  exact stepEnds_finishStep _

/-- A byte whose row ends the loop of R112 is none of the bytes of R94. -/
theorem prefixOfByte_of_decodeBytes {b0 b1 b2 : Byte} {i : Instr} (hd : decodeBytes b0 b1 b2 = some i)
    (hi : i.toPrefix = none) : prefixOfByte b0 = none := by
  rw [prefixOfByte_eq_bind b0 b1 b2, hd]
  exact hi

/-- Settles O6: the loop ends past the prefixes, which leave CS and memory, and the opcode there is run. -/
theorem stepRunsThePrefixedInstruction : Obligations.StepRunsThePrefixedInstruction := by
  intro s ps i hhung hhalted hlen hbegin hd hi
  have hloop : State.consumePrefixes prefixFuel s.clearPrefixes =
      some { ps.foldl State.recordPrefix s.clearPrefixes with ip := s.ip + BitVec.ofNat 16 ps.length } :=
    State.consumePrefixes_eq ps 65535 s.clearPrefixes (by omega) hbegin (prefixOfByte_of_decodeBytes hd hi)
  obtain ⟨hcs, -, hmem⟩ := State.foldl_recordPrefix_keeps ps s.clearPrefixes
  rw [step_of_consumePrefixes hhung hhalted hloop]
  have hrun := stepEnds_runOpcode (i := i)
    (p := { ps.foldl State.recordPrefix s.clearPrefixes with ip := s.ip + BitVec.ofNat 16 ps.length })
    (by simp only [State.memRead8, hcs, hmem]; exact hd)
  rw [State.advanceIp, BitVec.add_assoc, ← BitVec.ofNat_add] at hrun
  exact hrun

/-! ### MOV with an immediate (R150, R151) -/

/-- Settles O37, register by register. -/
theorem moveImmediateResults : Obligations.MoveImmediateResults := by
  refine ⟨fun r b s => ⟨rfl, ?byteForm⟩, fun r w s => ⟨withWord_eq _ w, ?wordForm⟩⟩
  case byteForm => cases r <;> rfl
  case wordForm => cases r <;> rfl

/-! ### The keyboard services (R326 to R328) -/

theorem exec_int_keyboard (s : State) : exec (.int 0x16) s = serviceKeyboard s := rfl

theorem serviceKeyboard_read {s : State} (h : s.reg8 .ah = 0x00) : serviceKeyboard s = .next s.readKey := by
  unfold serviceKeyboard
  rw [h]
  rfl

theorem serviceKeyboard_check {s : State} (h : s.reg8 .ah = 0x01) : serviceKeyboard s = keyboardCheck s := by
  unfold serviceKeyboard
  rw [h]
  rfl

theorem serviceKeyboard_shift {s : State} (h : s.reg8 .ah = 0x02) :
    serviceKeyboard s = .next (s.setReg8 .al s.bios.shift) := by
  unfold serviceKeyboard
  rw [h]
  rfl

theorem State.readKey_nil {s : State} (h : s.bios.kbd.keys = []) : s.readKey = { s with ax := 0 } := by
  unfold State.readKey
  rw [h]

theorem State.readKey_cons {s : State} {k : Key} {rest : List Key} (h : s.bios.kbd.keys = k :: rest) :
    s.readKey = { s with
      ax := joinBytes k.scan k.ascii
      bios := { s.bios with
        kbd := { keys := rest, head := (s.bios.kbd.head + 1) % s.params.kbdCap, tail := s.bios.kbd.tail } } } := by
  unfold State.readKey
  rw [Ring.pop_cons _ h, h]
  rfl

theorem keyboardCheck_nil {s : State} (h : s.bios.kbd.keys = []) :
    keyboardCheck s = .next { s with ax := 0, flags := putFlag s.flags .zero true } := by
  unfold keyboardCheck
  rw [h]
  rfl

theorem keyboardCheck_cons {s : State} {k : Key} {rest : List Key} (h : s.bios.kbd.keys = k :: rest) :
    keyboardCheck s = .next { s with ax := joinBytes k.scan k.ascii, flags := putFlag s.flags .zero false } := by
  unfold keyboardCheck
  rw [h]
  rfl

/-- Settles O51: the three functions, each on an empty ring and on one that holds a pair. -/
theorem keyboardServiceResults : Obligations.KeyboardServiceResults := by
  intro s k rest
  simp only [← reg8_ah, exec_int_keyboard]
  refine ⟨fun hah => ?read, fun hah => ?check, serviceKeyboard_shift⟩
  case read =>
    rw [serviceKeyboard_read hah]
    exact ⟨fun hk => by rw [State.readKey_nil hk], fun hk => by rw [State.readKey_cons hk]⟩
  case check =>
    rw [serviceKeyboard_check hah]
    exact ⟨fun hk => ⟨_, keyboardCheck_nil hk, oneBit_putFlag s.flags .zero true⟩,
      fun hk => ⟨_, keyboardCheck_cons hk, oneBit_putFlag s.flags .zero false⟩⟩

/-! ### The DOS character services and exit (R330, R331, R333) -/

theorem serviceDos_input {s : State} (h : s.reg8 .ah = 0x01) : serviceDos s = dosInput s := by
  unfold serviceDos
  rw [h]
  rfl

theorem serviceDos_output {s : State} (h : s.reg8 .ah = 0x02) : serviceDos s = dosOutput s := by
  unfold serviceDos
  rw [h]
  rfl

theorem serviceDos_exit {s : State} (h : s.reg8 .ah = 0x4C) : serviceDos s = .next { s with halted := true } := by
  unfold serviceDos
  rw [h]
  rfl

/-- Teletype answers with its screen when the cursor is on it (R315). -/
theorem State.teletype_eq {s : State} (c : Byte) (h : s.bios.curRow.toNat < 25 ∧ s.bios.curCol.toNat < 80) :
    s.teletype c = .next (s.putChar c) := if_pos (s.cursorOk_iff.2 h)

theorem TeletypeChange.ax {s t : State} (h : TeletypeChange s t) : t.ax = s.ax := by rw [h.rest]

theorem TeletypeChange.drawCount {s t : State} (h : TeletypeChange s t) : t.drawCount = s.drawCount := by rw [h.rest]

/-- Output with the cursor on the screen: the character is printed and AL drawn (R331). -/
theorem dosOutput_eq {s : State} (h : s.bios.curRow.toNat < 25 ∧ s.bios.curCol.toNat < 80) :
    dosOutput s = .next { s.putChar (s.reg8 .dl) with
      ax := (s.ax &&& 0xFF00) ||| (Config.freeByte s.drawCount).setWidth 16, drawCount := s.drawCount + 1 } := by
  have hc := s.putChar_change (s.reg8 .dl) h
  unfold dosOutput
  rw [State.teletype_eq _ h, drawAfter, State.drawReg8_al, hc.ax, hc.drawCount]

/-- The echo of a key already in AX, with the cursor on the screen: it is printed and AH drawn (R330). -/
theorem drawAfter_echo {s : State} (scan c : Byte) (h : s.bios.curRow.toNat < 25 ∧ s.bios.curCol.toNat < 80) :
    drawAfter .ah (State.teletype { s with ax := joinBytes scan c } c) = .next { s.putChar c with
      ax := joinBytes (Config.freeByte s.drawCount) c, drawCount := s.drawCount + 1 } := by
  rw [State.teletype_eq (s := { s with ax := joinBytes scan c }) c h, State.putChar_ax, drawAfter, State.drawReg8_ah,
    lowByte_joinBytes, (s.putChar_change c h).drawCount]

/-- Input of a pair that the ring holds: it is read and its character echoed (R330). -/
theorem dosInput_cons {s : State} {k : Key} {rest : List Key} (hk : s.bios.kbd.keys = k :: rest) :
    dosInput s = drawAfter .ah (s.readKey.teletype k.ascii) := by
  have hal : s.readKey.reg8 .al = k.ascii := by
    rw [State.readKey_cons hk]
    exact lowByte_joinBytes k.scan k.ascii
  unfold dosInput
  rw [hk, hal]

/-- Input from an empty ring that echoes NUL (R330). -/
theorem dosInput_echoNul {s : State} (hk : s.bios.kbd.keys = []) (hp : s.params.dosInputEmpty = .echoNul) :
    dosInput s = drawAfter .ah (s.readKey.teletype 0x00) := by
  have hal : s.readKey.reg8 .al = 0x00 := by
    rw [State.readKey_nil hk]
    rfl
  unfold dosInput
  rw [hk, hp, hal]

/-- Input from an empty ring that echoes nothing (R330). -/
theorem dosInput_noEcho {s : State} (hk : s.bios.kbd.keys = []) (hp : s.params.dosInputEmpty = .noEcho) :
    dosInput s = .next (s.readKey.drawReg8 .ah) := by
  unfold dosInput
  rw [hk, hp]
  rfl

/-- AX = 0 is a pair of two zero bytes (R326). -/
theorem joinBytes_zero : joinBytes 0x00 0x00 = 0 := rfl

/-- Settles O56: output, input in the three cases of ring and echo, and exit. -/
theorem dosCharacterServiceResults : Obligations.DosCharacterServiceResults := by
  intro s k rest hrow hcol
  have hcur : s.bios.curRow.toNat < 25 ∧ s.bios.curCol.toNat < 80 := ⟨hrow, hcol⟩
  simp only [← reg8_ah, ← reg8_dl, exec_int_dos]
  refine ⟨fun hah => ?output, fun hah hk => ?key, fun hah hk hp => ?echoNul, fun hah hk hp => ?noEcho,
    serviceDos_exit⟩
  case output =>
    rw [serviceDos_output hah]
    exact ⟨_, dosOutput_eq hcur⟩
  case key =>
    rw [serviceDos_input hah, dosInput_cons hk, State.readKey_cons hk]
    exact ⟨_, drawAfter_echo (s := { s with bios := { s.bios with kbd := _ } }) k.scan k.ascii hcur⟩
  case echoNul =>
    rw [serviceDos_input hah, dosInput_echoNul hk hp, State.readKey_nil hk, ← joinBytes_zero]
    exact ⟨_, drawAfter_echo 0x00 0x00 hcur⟩
  case noEcho =>
    rw [serviceDos_input hah, dosInput_noEcho hk hp, State.readKey_nil hk, State.drawReg8_ah]
    exact ⟨_, rfl⟩

/-! ### The host between steps (R329, R384) -/

theorem State.injectKey_of_room {s : State} (k : Key) (h : s.bios.kbd.keys.length < s.params.kbdCap) :
    s.injectKey k = { s with bios := { s.bios with kbd := s.bios.kbd.push s.params.kbdCap k } } := if_pos h

theorem State.injectKey_of_full {s : State} (k : Key) (h : s.params.kbdCap ≤ s.bios.kbd.keys.length) :
    s.injectKey k = s := if_neg (Nat.not_lt.2 h)

theorem State.injectKey_inv {s : State} (k : Key) (hs : s.Inv) : (s.injectKey k).Inv := by
  by_cases h : s.bios.kbd.keys.length < s.params.kbdCap
  · rw [State.injectKey_of_room k h]
    exact ⟨hs.memory, hs.cursor, Ring.wf_push hs.ring h k⟩
  · rw [State.injectKey_of_full k (Nat.not_lt.1 h)]
    exact hs

theorem State.injectShift_inv {s : State} (b : Byte) (hs : s.Inv) : (s.injectShift b).Inv :=
  ⟨hs.memory, hs.cursor, hs.ring⟩

/-- A loaded byte changes no other address, whatever the policy (R384). -/
theorem read8_loadByte_ne (p : Params) (m : Memory) {addr : Nat} (b : Byte) {c : Addr}
    (hc : c ≠ BitVec.ofNat 20 addr) : Memory.read8 (loadByte p m addr b) c = Memory.read8 m c := by
  unfold loadByte
  cases p.loaderRoPolicy with
  | honour => exact (byteStored_write8 p m _ b).2 c hc
  | bypass => exact (Memory.read8_set m (BitVec.ofNat 20 addr) c b).trans (if_neg hc)

/-- A loaded byte is there, where the loader bypasses the mask or the page is writable (R384, D7). -/
theorem read8_loadByte_self (p : Params) (m : Memory) {addr : Nat} (b : Byte)
    (h : p.loaderRoPolicy = .bypass ∨ roAt p (BitVec.ofNat 20 addr) = false) :
    Memory.read8 (loadByte p m addr b) (BitVec.ofNat 20 addr) = b := by
  unfold loadByte
  cases hp : p.loaderRoPolicy with
  | honour =>
    have hro := h.resolve_left (by rw [hp]; exact nofun)
    exact (byteStored_write8 p m _ b).1.trans (if_neg (by simp [hro]))
  | bypass => exact (Memory.read8_set m (BitVec.ofNat 20 addr) _ b).trans (if_pos rfl)

/-- A load changes no byte outside the file's place, which does not wrap (R384). -/
theorem read8_loadBytes_outside (p : Params) (bytes : List Byte) : ∀ (m : Memory) (addr : Nat) (c : Addr),
    addr + bytes.length ≤ 2 ^ 20 → c.toNat < addr ∨ addr + bytes.length ≤ c.toNat →
    Memory.read8 (loadBytes p m addr bytes) c = Memory.read8 m c := by
  induction bytes with
  | nil => exact fun m addr c _ _ => rfl
  | cons b t ih =>
    intro m addr c hfit hc
    rw [List.length_cons] at hfit hc
    have hne : c ≠ BitVec.ofNat 20 addr := by
      rintro rfl
      rw [BitVec.toNat_ofNat, Nat.mod_eq_of_lt (by omega)] at hc
      omega
    rw [loadBytes, ih _ (addr + 1) c (by omega) (by omega), read8_loadByte_ne p m b hne]

/-- A load puts byte `i` of the file at `u20(addr + i)` (R384). -/
theorem read8_loadBytes_inside (p : Params) (bytes : List Byte) : ∀ (m : Memory) (addr i : Nat)
    (h : i < bytes.length), addr + bytes.length ≤ 2 ^ 20 →
    (p.loaderRoPolicy = .bypass ∨ roAt p (BitVec.ofNat 20 (addr + i)) = false) →
    Memory.read8 (loadBytes p m addr bytes) (BitVec.ofNat 20 (addr + i)) = bytes[i] := by
  induction bytes with
  | nil => exact fun m addr i h => absurd h (Nat.not_lt_zero i)
  | cons b t ih =>
    intro m addr i h hfit hw
    rw [List.length_cons] at h hfit
    rw [loadBytes]
    cases i with
    | zero =>
      have hout : (BitVec.ofNat 20 (addr + 0)).toNat < addr + 1 := by
        rw [BitVec.toNat_ofNat, Nat.mod_eq_of_lt (by omega)]
        omega
      rw [read8_loadBytes_outside p t _ (addr + 1) _ (by omega) (.inl hout)]
      exact read8_loadByte_self p m b hw
    | succ i =>
      rw [show addr + (i + 1) = addr + 1 + i by omega] at hw ⊢
      exact ih _ (addr + 1) i (by omega) (by omega) hw

theorem State.loadBinary_tooLarge (s : State) {addr : Nat} {bytes : List Byte} (h : 0x100000 - addr < bytes.length) :
    s.loadBinary (some bytes) addr = .error .fileTooLarge := if_pos h

theorem State.loadBinary_fits (s : State) {addr : Nat} {bytes : List Byte} (h : addr + bytes.length ≤ 0x100000) :
    s.loadBinary (some bytes) addr = .ok { s with mem := loadBytes s.params s.mem addr bytes } :=
  if_neg (by omega)

/-- Settles O60: the two injections, and the loader inside and outside the file's place. -/
theorem hostInjectionAndLoadResults : Obligations.HostInjectionAndLoadResults := by
  refine ⟨fun s k => ⟨State.injectKey_of_room k, State.injectKey_of_full k, State.injectKey_inv k⟩,
    fun s b => ⟨rfl, State.injectShift_inv b⟩,
    fun s addr bytes => ⟨rfl, fun hlarge _ => s.loadBinary_tooLarge (by omega), fun hfit hw => ?loaded⟩⟩
  case loaded =>
    refine ⟨_, s.loadBinary_fits hfit, fun i hi => ?inside, fun c hc => ?outside⟩
    case inside => exact read8_loadBytes_inside s.params bytes s.mem addr i hi hfit (hw.imp_right fun h => h i hi)
    case outside => exact read8_loadBytes_outside s.params bytes s.mem addr c hfit hc

end Sys2Proof.Machine

/-! ## Memory (spec/20_memory.md): accesses, segment combination, and which instructions store -/

namespace Sys2Proof.Machine

/-! ### Accesses (R52 to R56) -/

/-- A byte write in a read-only page changes no state at all (R54). -/
theorem State.memWrite8_of_readOnly {s : State} {a : Addr} (v : Byte) (h : pageReadOnly s.params a = true) :
    s.memWrite8 a v = s := by
  unfold State.memWrite8 Memory.write8
  rw [if_pos h]

/-- What every byte reads as after a byte write in a writable page (R54). -/
theorem State.memRead8_memWrite8 {s : State} {a : Addr} (v : Byte) (c : Addr)
    (h : pageReadOnly s.params a = false) :
    (s.memWrite8 a v).memRead8 c = if c = a then v else s.memRead8 c := by
  unfold State.memRead8
  rw [State.memWrite8_mem, Memory.read8_write8]
  simp only [h, and_true]

/-- Settles O20, by the page's bit in the read-only mask. -/
theorem byteWriteThenRead : Obligations.ByteWriteThenRead := fun _ _ v =>
  ⟨State.memWrite8_of_readOnly v, fun h => ⟨rfl, fun c => State.memRead8_memWrite8 v c h⟩⟩

/-- The bytes of a word read (R55). -/
theorem State.lowByte_memRead16 (s : State) (a : Addr) : lowByte (s.memRead16 a) = s.memRead8 a :=
  lowByte_joinBytes _ _

theorem State.highByte_memRead16 (s : State) (a : Addr) : highByte (s.memRead16 a) = s.memRead8 (a + 1) :=
  highByte_joinBytes _ _

/-- Settles O21: the filtered store of a word, and the two halves of a word read. -/
theorem wordAccessIsLittleEndian : Obligations.WordAccessIsLittleEndian := by
  intro s a v
  rw [extract_low, extract_high]
  exact ⟨rfl, wordStored_write16 s.params s.mem a v, s.lowByte_memRead16 a, s.highByte_memRead16 a⟩

/-- Settles O22. -/
theorem segmentCombinationWraps : Obligations.SegmentCombinationWraps :=
  ⟨fun _ _ => BitVec.toNat_ofNat _ _, by decide, by decide⟩

/-! ### Which instructions store (R61) -/

@[simp] theorem State.jumpIf_mem (s : State) (c : Bool) (d : Byte) : (s.jumpIf c d).mem = s.mem := by
  cases c <;> rfl

/-- Settles O18: the storing forms are excluded, and every other meaning writes registers, FLAGS, IP, prefix state or
`halted` only; an extension form does so where it is enabled. -/
theorem onlyListedInstructionsWriteMemory : Obligations.OnlyListedInstructionsWriteMemory := by
  intro i s t h hi
  cases i with
  | movMoffsAl _ | movMoffsAx _ | pushR16 _ | pushf | call _ | int _ => cases hi
  | addAl _ | addAx _ | subAl _ | subAx _ | cmpAl _ | cmpAx _ | orAl _ | orAx _ | andAl _ | andAx _ | xorAl _
  | xorAx _ => cases h; rfl
  | adcAl _ | adcAx _ | sbbAl _ | sbbAx _ | testAl _ | testAx _ => rw [extension_next h]; rfl
  | incR16 r | decR16 r => cases h; exact s.setReg16_mem r _
  | jo _ | jno _ | jb _ | jae _ | je _ | jne _ | jbe _ | ja _ | js _ | jns _ | jp _ | jnp _ | jl _ | jge _ | jle _
  | jg _ => cases h; exact s.jumpIf_mem _ _
  | loop _ => cases h; exact State.jumpIf_mem _ _ _
  | jmp _ | ret | iret | hlt | nop | popf => cases h; rfl
  | popR16 r => cases h; exact s.popped.setReg16_mem r _
  | movR8Imm r _ => cases h; exact s.setReg16_mem _ _
  | movR16Imm r _ => cases h; exact s.setReg16_mem r _
  | xchgAx r => cases h; exact State.setReg16_mem _ r _
  | movAlMoffs _ | movAxMoffs _ => cases h; rfl
  | clc | stc | cli | sti | cld | std => cases h; rfl
  | segEs | segCs | segSs | segDs | lock | repne | rep => cases h; rfl

/-! ### MOV to memory (R154, R155) -/

theorem exec_movMoffsAl (off : Word) (s : State) : exec (.movMoffsAl off) s =
    .next { s with mem := Memory.write8 s.params s.mem (s.moffsAddr off) (s.reg8 .al) } := rfl

theorem exec_movMoffsAx (off : Word) (s : State) : exec (.movMoffsAx off) s =
    .next { s with mem := Memory.write16 s.params s.mem (s.moffsAddr off) s.ax } := rfl

/-- The segment of a direct-offset operand, override by override (R90). -/
theorem State.dataSeg_eq (s : State) : s.dataSeg =
    match s.segOvr with
    | none => s.ds
    | some .es => s.es
    | some .cs => s.cs
    | some .ss => s.ss
    | some .ds => s.ds := by
  unfold State.dataSeg
  cases s.segOvr with
  | none => rfl
  | some r => cases r <;> rfl

/-- Settles O39: both forms store at the operand's address through the mask. -/
theorem moveToMemoryResults : Obligations.MoveToMemoryResults := by
  intro off s seg
  have haddr : s.moffsAddr off = lin seg off := congrArg (lin · off) s.dataSeg_eq
  rw [exec_movMoffsAl, exec_movMoffsAx, haddr, ← reg8_al]
  exact ⟨withWord_eq 0xA2 off, withWord_eq 0xA3 off, ⟨_, rfl, byteStored_write8 s.params s.mem _ _⟩,
    ⟨_, rfl, wordStored_write16 s.params s.mem _ _⟩⟩

/-! ### INT through the vector table (R280, R283, R284) -/

theorem word_sub_two_two (w : Word) : w - 2 - 2 = w - 4 := by bv_omega

theorem word_sub_four_two (w : Word) : w - 4 - 2 = w - 6 := by bv_omega

/-- Memory after the pushes of an interrupt: FLAGS, CS and IP at SS:(SP-2), SS:(SP-4) and SS:(SP-6) (R280). -/
def State.frameMem (s : State) : Memory :=
  let m1 := Memory.write16 s.params s.mem (lin s.ss (s.sp - 2)) s.flags
  let m2 := Memory.write16 s.params m1 (lin s.ss (s.sp - 4)) s.cs
  Memory.write16 s.params m2 (lin s.ss (s.sp - 6)) s.ip

theorem State.pushFrame_eq (s : State) : s.pushFrame = { s with sp := s.sp - 6, mem := s.frameMem } := by
  simp only [State.pushFrame, State.push16, State.frameMem, word_sub_two_two, word_sub_four_two]

/-- The entry through the vector table reads the entry from memory as the pushes leave it (R280). -/
theorem State.enterInterrupt_eq (s : State) (n : Byte) : s.enterInterrupt n = { s with
    sp := s.sp - 6
    mem := s.frameMem
    flags := (s.enterInterrupt n).flags
    ip := Memory.read16 s.frameMem (BitVec.ofNat 20 (4 * n.toNat))
    cs := Memory.read16 s.frameMem (BitVec.ofNat 20 (4 * n.toNat + 2)) } := by
  rw [← ivtAddr_add_two]
  unfold State.enterInterrupt
  rw [s.pushFrame_eq]
  rfl

theorem State.ivtNull_iff (s : State) (n : Byte) : s.ivtNull n = true ↔
    s.memRead16 (BitVec.ofNat 20 (4 * n.toNat)) = 0 ∧ s.memRead16 (BitVec.ofNat 20 (4 * n.toNat + 2)) = 0 := by
  rw [← ivtAddr_add_two]
  unfold State.ivtNull
  rw [Bool.and_eq_true, beq_iff_eq, beq_iff_eq]
  rfl

/-- INT of a vector that is not intercepted, through an entry that is not ignored (R282, R284). -/
theorem execInt_enter {n : Byte} {s : State} (hn : n ∉ [0x10, 0x13, 0x16, 0x21])
    (h : s.params.ivtNullIgnored = false ∨ s.memRead16 (BitVec.ofNat 20 (4 * n.toNat)) ≠ 0 ∨
      s.memRead16 (BitVec.ofNat 20 (4 * n.toNat + 2)) ≠ 0) :
    execInt n s = .next (s.enterInterrupt n) := by
  obtain ⟨hi, -⟩ | ⟨-, hnull, -⟩ | ⟨-, -, e⟩ := execInt_cases n s
  · exact absurd ((intercepted_iff n).1 hi) hn
  · rw [Bool.and_eq_true, s.ivtNull_iff] at hnull
    obtain ⟨hignored, hip, hcs⟩ := hnull
    simp [hignored, hip, hcs] at h
  · exact e

/-- Settles O46: the three pushes are word stores one after another, and the entry is read from the last memory. -/
theorem interruptEntersThroughTheVectorTable : Obligations.InterruptEntersThroughTheVectorTable := by
  intro n s hn h
  refine ⟨_, _, s.frameMem, (s.enterInterrupt n).flags, ?_, wordStored_write16 _ _ _ _, wordStored_write16 _ _ _ _,
    wordStored_write16 _ _ _ _, s.enterInterrupt_flags n⟩
  exact (execInt_enter hn h).trans (congrArg _ (s.enterInterrupt_eq n))

end Sys2Proof.Machine

/-! ## Encoding (spec/30_encoding.md): the decoder and the encoder, the ModR/M decoder, and what is refused -/

namespace Sys2Proof.Machine

/-! ### Decoding what was encoded, and the bytes that are no instruction (R82, R83, R88, R92) -/

/-- An opcode of a row without operand bytes reads back (R82). -/
theorem decode_plain {op : Byte} {i : Instr} (rest : List Byte) (hd : ∀ b1 b2, decodeBytes op b1 b2 = some i)
    (hl : i.length = 1) : decode ([op] ++ rest) = .ok (i, rest) :=
  decode_ok op [] rest i (hd _ _) hl

/-- An opcode of a row with one operand byte reads back with it (R82). -/
theorem decode_byte {op : Byte} (b : Byte) (rest : List Byte) (f : Byte → Instr)
    (hd : ∀ b1 b2, decodeBytes op b1 b2 = some (f b1)) (hl : (f b).length = 2) :
    decode ([op, b] ++ rest) = .ok (f b, rest) :=
  decode_ok op [b] rest (f b) (hd _ _) hl

/-- Settles O1, format by format (R82): one opcode byte, one operand byte, a word, and the rows with a register field
register by register (R83). -/
theorem decodeOfEncodeIsIdentity : Obligations.DecodeOfEncodeIsIdentity := by
  intro i rest hwf
  cases i with
  | nop | pushf | popf | ret | iret | hlt | clc | stc | cli | sti | cld | std | segEs | segCs | segSs | segDs | lock
  | repne | rep => exact decode_plain rest (fun _ _ => rfl) rfl
  | addAl b | orAl b | andAl b | subAl b | xorAl b | cmpAl b | adcAl b | sbbAl b | testAl b | jo b | jno b | jb b
  | jae b | je b | jne b | jbe b | ja b | js b | jns b | jp b | jnp b | jl b | jge b | jle b | jg b | int b | loop b
  | jmp b => exact decode_byte b rest _ (fun _ _ => rfl) rfl
  | addAx w | orAx w | andAx w | subAx w | xorAx w | cmpAx w | adcAx w | sbbAx w | testAx w | movAlMoffs w
  | movAxMoffs w | movMoffsAl w | movMoffsAx w | call w =>
    exact decode_ok_word _ w rest _ (fun _ _ => rfl) (fun _ => rfl)
  | incR16 r | decR16 r | pushR16 r | popR16 r =>
    cases r <;> exact decode_plain rest (fun _ _ => rfl) rfl
  | xchgAx r =>
    cases r with
    | ax => cases hwf
    | cx | dx | bx | sp | bp | si | di => exact decode_plain rest (fun _ _ => rfl) rfl
  | movR8Imm r b => cases r <;> exact decode_byte b rest _ (fun _ _ => rfl) rfl
  | movR16Imm r w => cases r <;> exact decode_ok_word _ w rest _ (fun _ _ => rfl) (fun _ => rfl)

/-- Settles O4: each word has its format's length, and its operand bytes are joined low byte first. -/
theorem sampleWordsDecode : Obligations.SampleWordsDecode := by
  and_intros <;> rfl

theorem decodeRegRow_isNone (row reg : Nat) (b1 b2 : Byte) :
    (decodeRegRow row reg b1 b2).isNone = (decodeRegRow row reg 0 0).isNone := by
  unfold decodeRegRow
  split <;> rfl

/-- Whether a byte is an opcode does not depend on the bytes after it (R92). -/
theorem decodeBytes_isNone (b0 b1 b2 : Byte) : (decodeBytes b0 b1 b2).isNone = (decodeBytes b0 0 0).isNone := by
  unfold decodeBytes
  generalize b0.toNat = n
  split
  case h_62 => exact decodeRegRow_isNone _ _ b1 b2
  all_goals simp only [Option.isNone_some]

/-- The opcode map, all 256 bytes of it (R88). -/
theorem decodeBytes_zero_eq_none_iff : ∀ b0 : Byte, decodeBytes b0 0 0 = none ↔ b0.toNat ∈ dashBytes := by decide

theorem decodeBytes_eq_none_iff (b0 b1 b2 : Byte) : decodeBytes b0 b1 b2 = none ↔ b0.toNat ∈ dashBytes := by
  rw [← decodeBytes_zero_eq_none_iff, ← Option.isNone_iff_eq_none, decodeBytes_isNone, Option.isNone_iff_eq_none]

/-- Settles O3, by the opcode map. -/
theorem decodeRefusesExactlyTheDashBytes : Obligations.DecodeRefusesExactlyTheDashBytes :=
  ⟨rfl, decodeBytes_eq_none_iff⟩

/-! ### Encoding what was decoded (R83, R86, R88, R98) -/

theorem Reg16.code_ofCode {n : Nat} (h : n < 8) : (Reg16.ofCode n).code = n := by
  interval_cases n <;> rfl

theorem Reg8.code_ofCode {n : Nat} (h : n < 8) : (Reg8.ofCode n).code = n := by
  interval_cases n <;> rfl

theorem byte_eq_of_toNat {b : Byte} {n : Nat} (h : b.toNat = n) : b = BitVec.ofNat 8 n := by
  rw [← h, BitVec.ofNat_toNat, BitVec.setWidth_eq]

/-- A byte is the opcode that its upper five bits and its register field make (R83). -/
theorem withReg_of_row {b : Byte} {row : Nat} (h : b.toNat / 8 = row) : withReg (8 * row) (b.toNat % 8) = b := by
  rw [withReg, ← h, Nat.div_add_mod, BitVec.ofNat_toNat, BitVec.setWidth_eq]

/-- A word operand read from two bytes is written as those bytes, low byte first (R86). -/
theorem withWord_joinBytes (op hi lo : Byte) : withWord op (joinBytes hi lo) = [op, lo, hi] := by
  simp [withWord]

/-- XCHG with AX is read from no byte but 0x90, which is NOP's (R93, R156; log entry 29). -/
theorem Reg16.ofCode_ne_ax {n : Nat} (h : n ≠ 0) : Reg16.ofCode n ≠ .ax := by
  unfold Reg16.ofCode
  split
  next => exact absurd rfl h
  all_goals exact nofun

/-- What EncodeOfDecodeIsIdentity says of a word and what is read from it. -/
def EncodesBack (b0 b1 b2 : Byte) (i : Instr) : Prop := i.WellFormed ∧ encode i = [b0, b1, b2].take i.length

/-- The rows with a register field: the opcode is the row's base plus the field (R83), and 0x90 is not among them. -/
theorem encodesBack_of_decodeRegRow {b0 b1 b2 : Byte} {i : Instr} (hnop : b0.toNat ≠ 0x90)
    (h : decodeRegRow (b0.toNat / 8) (b0.toNat % 8) b1 b2 = some i) : EncodesBack b0 b1 b2 i := by
  have hreg : b0.toNat % 8 < 8 := Nat.mod_lt _ (by decide)
  have h16 := Reg16.code_ofCode hreg
  have h8 := Reg8.code_ofCode hreg
  unfold decodeRegRow at h
  split at h
  case h_5 hrow =>
    cases h
    have hax : Reg16.ofCode (b0.toNat % 8) ≠ .ax := Reg16.ofCode_ne_ax (by omega)
    exact ⟨decide_eq_true hax, by simp [encode, Instr.length, h16, withReg_of_row hrow]⟩
  case h_8 => cases h
  all_goals
    next hrow =>
    cases h
    exact ⟨rfl, by simp [encode, Instr.length, h16, h8, withReg_of_row hrow, withWord_joinBytes]⟩

/-- Row by row of the opcode map (R88): the opcode byte is the row's, and the operand bytes are those read. -/
theorem encodesBack_of_decodeBytes {b0 b1 b2 : Byte} {i : Instr} (h : decodeBytes b0 b1 b2 = some i) :
    EncodesBack b0 b1 b2 i := by
  unfold decodeBytes at h
  split at h
  case h_62 => exact encodesBack_of_decodeRegRow ‹_› h
  all_goals
    next hop =>
    obtain rfl := byte_eq_of_toNat hop
    cases h
    exact ⟨rfl, by simp [encode, Instr.length, withWord_joinBytes]⟩

/-- Settles O2, by the rows of the opcode map. -/
theorem encodeOfDecodeIsIdentity : Obligations.EncodeOfDecodeIsIdentity := fun _ _ _ _ => encodesBack_of_decodeBytes

/-! ### The bytes of R88 that are no instruction, and the extension opcodes (R91, R92, R117, R119, R140) -/

theorem State.raiseInvalidOpcode_fault {s : State} {op : Byte} (addr : Addr) (h : op ∉ s.params.modrmOpcodes) :
    s.raiseInvalidOpcode op addr = .fault (.invalidOpcode op addr) :=
  if_neg (by simpa using h)

theorem refused_eq_refused_iff {r e : Refusal} : (.refused r : Answer) = .refused e ↔ e = r := by
  rw [Host.Outcome.refused.injEq, eq_comm]

/-- InvalidOpcode is a refusal where MODRM_OPCODES names the byte (R140; log entry 16). -/
theorem State.raiseInvalidOpcode_refused (s : State) (op : Byte) (addr : Addr) (e : Refusal) :
    s.raiseInvalidOpcode op addr = .refused e ↔ op ∈ s.params.modrmOpcodes ∧ e = .modrmOpcodeWithoutRule op addr := by
  by_cases h : op ∈ s.params.modrmOpcodes
  · rw [State.raiseInvalidOpcode, if_pos (by simpa using h), refused_eq_refused_iff]
    exact ⟨fun he => ⟨h, he⟩, And.right⟩
  · rw [State.raiseInvalidOpcode_fault addr h]
    exact ⟨nofun, fun he => absurd he.1 h⟩

theorem State.foldl_recordPrefix_params (ps : List Prefix) : ∀ s : State,
    (ps.foldl State.recordPrefix s).params = s.params := by
  induction ps with
  | nil => exact fun s => rfl
  | cons p ps ih => exact fun s => (ih _).trans (s.recordPrefix_params p)

theorem State.codeByte_zero (s : State) : s.codeByte 0 = s.memRead8 (lin s.cs s.ip) := by
  unfold State.codeByte
  rw [show s.ip + 0 = s.ip from BitVec.add_zero _]

/-- A byte marked `-` at CS:IP ends the step where the prefixes stop (R92, R117). -/
theorem runOpcode_of_dash {s : State} (h : (s.memRead8 (lin s.cs s.ip)).toNat ∈ dashBytes) :
    runOpcode s = s.raiseInvalidOpcode (s.memRead8 (lin s.cs s.ip)) (lin s.cs s.ip) := by
  rw [← s.codeByte_zero] at h
  have hfetch : s.fetchInstr = none := (decodeBytes_eq_none_iff _ _ _).2 h
  unfold runOpcode
  rw [hfetch, s.codeByte_zero]

theorem prefixOfByte_of_dash {b : Byte} (h : b.toNat ∈ dashBytes) : prefixOfByte b = none := by
  rw [prefixOfByte_eq_bind b 0 0, (decodeBytes_eq_none_iff b 0 0).2 h]
  rfl

/-- A step whose first byte past the prefixes is marked `-` raises InvalidOpcode there (R112, R117). -/
theorem step_of_dash {s : State} {ps : List Prefix} (hhung : s.hung = false) (hhalted : s.halted = false)
    (hlen : ps.length < 65536) (hbegin : BeginsWithPrefixes s ps)
    (hdash : (s.memRead8 (lin s.cs (s.ip + BitVec.ofNat 16 ps.length))).toNat ∈ dashBytes) :
    step s = State.raiseInvalidOpcode { ps.foldl State.recordPrefix s.clearPrefixes with
        ip := s.ip + BitVec.ofNat 16 ps.length }
      (s.memRead8 (lin s.cs (s.ip + BitVec.ofNat 16 ps.length))) (lin s.cs (s.ip + BitVec.ofNat 16 ps.length)) := by
  have hloop := State.consumePrefixes_eq ps 65535 s.clearPrefixes (by omega) hbegin (prefixOfByte_of_dash hdash)
  obtain ⟨hcs, -, hmem⟩ := State.foldl_recordPrefix_keeps ps s.clearPrefixes
  rw [step_of_consumePrefixes hhung hhalted hloop, runOpcode_of_dash] <;> simp only [State.memRead8, hcs, hmem]
  · rfl
  · exact hdash

/-- Settles O8: the step raises InvalidOpcode at the byte, and the prefixes leave MODRM_OPCODES. -/
theorem invalidByteEndsTheStep : Obligations.InvalidByteEndsTheStep := by
  intro s ps hhung hhalted hlen hbegin hdash op addr
  have hparams := State.foldl_recordPrefix_params ps s.clearPrefixes
  rw [step_of_dash hhung hhalted hlen hbegin hdash]
  exact ⟨fun hop => State.raiseInvalidOpcode_fault addr (hparams ▸ hop),
    fun hop => (State.raiseInvalidOpcode_refused _ op addr _).2 ⟨hparams ▸ hop, rfl⟩⟩

/-- Where `EXT_ACC_ALU` does not contain it, an extension opcode is InvalidOpcode at its own address (R119). -/
theorem extension_disabled {enabled : Bool} {s : State} {a : Answer} {op : Byte} {n : Nat} (h : enabled = false)
    (hop : op ∉ s.params.modrmOpcodes) :
    (if enabled then a else s.raiseInvalidBack op n) =
      .fault (.invalidOpcode op (lin s.cs (s.ip - BitVec.ofNat 16 n))) := by
  rw [h]
  exact State.raiseInvalidOpcode_fault _ hop

/-- Settles O28: no byte is in an empty MODRM_OPCODES. -/
theorem disabledExtensionIsInvalidOpcode : Obligations.DisabledExtensionIsInvalidOpcode := by
  intro b w s hnil
  have hop : ∀ op : Byte, op ∉ s.params.modrmOpcodes := fun op => hnil ▸ List.not_mem_nil
  refine ⟨fun h => ⟨?_, ?_⟩, fun h => ⟨?_, ?_⟩, fun h => ⟨?_, ?_⟩⟩ <;> exact extension_disabled h (hop _)

/-! ### The seven prefixes (R94, R115) -/

/-- Settles O45: each prefix row's byte, and the record it makes. -/
theorem prefixResults : Obligations.PrefixResults :=
  ⟨rfl, rfl, rfl, rfl, rfl, rfl, rfl, fun _ => ⟨rfl, rfl, rfl, rfl, rfl, rfl, rfl⟩⟩

/-! ### The ModR/M decoder (R130 to R136) -/

theorem State.fetch8_eq (s : State) : s.fetch8 = (s.memRead8 (lin s.cs s.ip), { s with ip := s.ip + 1 }) := by
  rw [State.fetch8, s.codeByte_zero]
  rfl

theorem State.fetch16_eq (s : State) : s.fetch16 =
    (joinBytes (s.memRead8 (lin s.cs (s.ip + 1))) (s.memRead8 (lin s.cs s.ip)), { s with ip := s.ip + 2 }) := by
  rw [State.fetch16, s.codeByte_zero]
  rfl

/-- The operand of a memory form (R130, R134). -/
theorem State.decodeModRM_mem {s : State} {m : Byte} (h : m.toNat / 64 ≠ 3) : s.decodeModRM m =
    (.mem (s.seg (s.rmSeg (m.toNat / 64) (m.toNat % 8)))
      (s.rmBase (m.toNat / 64) (m.toNat % 8) + (s.rmDisp (m.toNat / 64) (m.toNat % 8)).1),
     (s.rmDisp (m.toNat / 64) (m.toNat % 8)).2) := if_neg h

/-- The default segment is SS for a BP base, else DS (R135). -/
theorem State.seg_rmDefaultSeg (s : State) (mod rm : Nat) : s.seg (rmDefaultSeg mod rm) =
    if (rm = 2 ∨ rm = 3 ∨ rm = 6) ∧ ¬ (mod = 0 ∧ rm = 6) then s.ss else s.ds := by
  unfold rmDefaultSeg
  split
  next => simp [State.seg]
  next => simp [State.seg]
  next => by_cases hmod : mod = 0 <;> simp [hmod, State.seg]
  next h2 h3 h6 => exact (if_neg fun ⟨hbp, _⟩ => hbp.elim h2 (Or.elim · h3 h6)).symm

/-- The segment used: the override's, which always wins, else the default (R135, R136). -/
theorem State.seg_rmSeg (s : State) (mod rm : Nat) : s.seg (s.rmSeg mod rm) =
    match s.segOvr with
    | some .es => s.es
    | some .cs => s.cs
    | some .ss => s.ss
    | some .ds => s.ds
    | none => if (rm = 2 ∨ rm = 3 ∨ rm = 6) ∧ ¬ (mod = 0 ∧ rm = 6) then s.ss else s.ds := by
  unfold State.rmSeg
  cases s.segOvr with
  | none => exact s.seg_rmDefaultSeg mod rm
  | some r => cases r <;> rfl

/-- `mod = 00, rm = 110` has no base (R132). -/
theorem State.rmBase_direct (s : State) {mod rm : Nat} (h : mod = 0 ∧ rm = 6) : s.rmBase mod rm = 0#16 := by
  obtain ⟨rfl, rfl⟩ := h
  rfl

/-- Any other form has the base and index of the table of R132. -/
theorem State.rmBase_indirect (s : State) (mod : Nat) : ∀ rm : Nat, ¬ (mod = 0 ∧ rm = 6) → s.rmBase mod rm =
    match rm with
    | 0 => s.bx + s.si
    | 1 => s.bx + s.di
    | 2 => s.bp + s.si
    | 3 => s.bp + s.di
    | 4 => s.si
    | 5 => s.di
    | 6 => s.bp
    | _ => s.bx
  | 0, _ | 1, _ | 2, _ | 3, _ | 4, _ | 5, _ => rfl
  | 6, h => if_neg fun hmod => h ⟨hmod, rfl⟩
  | _ + 7, _ => rfl

theorem State.rmDisp_direct (s : State) {mod rm : Nat} (h : mod = 0 ∧ rm = 6) : s.rmDisp mod rm = s.fetch16 := by
  obtain ⟨rfl, rfl⟩ := h
  rfl

theorem State.rmDisp_none (s : State) {mod rm : Nat} (hmod : mod = 0) (hrm : rm ≠ 6) :
    s.rmDisp mod rm = (0#16, s) := by
  subst hmod
  exact if_neg hrm

theorem State.rmDisp_byte (s : State) {mod : Nat} (rm : Nat) (h : mod = 1) :
    s.rmDisp mod rm = (s.fetch8.1.signExtend 16, s.fetch8.2) := by
  subst h
  rfl

theorem State.rmDisp_word (s : State) {mod : Nat} (rm : Nat) (h : mod = 2) : s.rmDisp mod rm = s.fetch16 := by
  subst h
  rfl

/-- Settles O59: the segment once for all forms, base and displacement form by form. -/
theorem modRmDecoderResults : Obligations.ModRmDecoderResults := by
  intro s m md rm b0 b1 direct base seg
  have hseg : s.seg (s.rmSeg md rm) = seg := s.seg_rmSeg md rm
  have hmem (h : md ≠ 3) : s.decodeModRM m =
      (.mem seg (s.rmBase md rm + (s.rmDisp md rm).1), (s.rmDisp md rm).2) := by
    rw [← hseg]
    exact State.decodeModRM_mem h
  have hbase (h : ¬ direct) : s.rmBase md rm = base := s.rmBase_indirect md rm h
  refine ⟨fun h => if_pos h, fun hd => ?direct, fun h0 h6 => ?noDisp, fun h1 => ?byteDisp, fun h2 => ?wordDisp⟩
  case direct =>
    rw [hmem (by omega), s.rmBase_direct hd, s.rmDisp_direct hd, s.fetch16_eq, BitVec.zero_add]
  case noDisp => rw [hmem (by omega), hbase fun hd => h6 hd.2, s.rmDisp_none h0 h6, BitVec.add_zero]
  case byteDisp => rw [hmem (by omega), hbase fun hd => by omega, s.rmDisp_byte rm h1, s.fetch8_eq]
  case wordDisp => rw [hmem (by omega), hbase fun hd => by omega, s.rmDisp_word rm h2, s.fetch16_eq]

/-! ### ADC, SBB and TEST (R193 to R195, R214 to R219) -/

/-- AL replaced by a result with the flag engine's word, in the terms of Safety.lean. -/
theorem State.alResult_putAl (s : State) (r : Byte) (cf ovf af : Bool) :
    AlResult s (.next (s.putAl r (putStatus s.flags r cf ovf af))) r cf af ovf :=
  ⟨_, rfl, by
    have h := statusBits_putStatus s.flags r cf ovf af
    rwa [BitVec.setWidth_eq, BitVec.msb_eq_getLsbD_last] at h⟩

theorem State.axResult_putAx (s : State) (r : Word) (cf ovf af : Bool) :
    AxResult s (.next (s.putAx r (putStatus s.flags r cf ovf af))) r cf af ovf :=
  ⟨_, rfl, by
    have h := statusBits_putStatus s.flags r cf ovf af
    rwa [BitVec.msb_eq_getLsbD_last] at h⟩

/-- FLAGS after a logical operation: CF and OF clear, AF the draw (R193). -/
theorem State.flagsResult_logicFlags {w : Nat} (s : State) (r : BitVec w) :
    FlagsResult { s with drawCount := s.drawCount + 1 } (.next (s.logicFlags r)) r false (Config.freeBit s.drawCount)
      false :=
  ⟨_, rfl, by
    have h := statusBits_putStatus s.flags r false false (Config.freeBit s.drawCount)
    rwa [BitVec.msb_eq_getLsbD_last] at h⟩

/-- CF as a number of the operands' width (R194, R195). -/
theorem State.carryIn_flag (w : Nat) (s : State) :
    (if s.flags.getLsbD 0 then 1 else 0 : BitVec w) = carryIn w (s.flag .carry) := by
  show (if s.flag .carry then 1 else 0 : BitVec w) = _
  cases s.flag .carry <;> rfl

theorem toNat_carryIn_byte (c : Bool) : (carryIn 8 c).toNat = c.toNat := by cases c <;> rfl

theorem toNat_carryIn_word (c : Bool) : (carryIn 16 c).toNat = c.toNat := by cases c <;> rfl

/-- AF of a word operation as the spec writes it, a test of one masked bit (R191, R192). -/
theorem masked_aux_word (x : Word) : ((x &&& 0x10) != 0) = x.getLsbD 4 := masked_bit_word x 4 (by decide)

theorem masked_msb_word (x : Word) : ((x &&& 0x8000) != 0) = x.msb := by
  rw [BitVec.msb_eq_getLsbD_last]
  exact masked_bit_word x 15 (by decide)

/-- Settles O27: the statement's expressions are those of the flag engine, whose answer an enabled form gives. -/
theorem enabledExtensionResults : Obligations.EnabledExtensionResults := by
  refine ⟨fun b s => ?bytes, fun b s => ?words⟩
  case bytes =>
    simp only [← reg8_al, s.carryIn_flag, toNat_carryIn_byte, masked_aux_byte, masked_msb_byte]
    refine ⟨fun h => ?adc, fun h => ?sbb, fun h => ⟨Config.freeBit s.drawCount, ?test⟩⟩
    case adc => rw [exec, execAdcAl, if_pos h]; exact s.alResult_putAl _ _ _ _
    case sbb => rw [exec, execSbbAl, if_pos h]; exact s.alResult_putAl _ _ _ _
    case test => rw [exec, execTestAl, if_pos h]; exact s.flagsResult_logicFlags _
  case words =>
    simp only [s.carryIn_flag, toNat_carryIn_word, masked_aux_word, masked_msb_word]
    refine ⟨fun h => ?adc, fun h => ?sbb, fun h => ⟨Config.freeBit s.drawCount, ?test⟩⟩
    case adc => rw [exec, execAdcAx, if_pos h]; exact s.axResult_putAx _ _ _ _
    case sbb => rw [exec, execSbbAx, if_pos h]; exact s.axResult_putAx _ _ _ _
    case test => rw [exec, execTestAx, if_pos h]; exact s.flagsResult_logicFlags _

/-! ### What is refused (R140, R303, R312, R313; log entries 16 to 18, 28) -/

theorem videoSetCursor_refused (s : State) (e : Refusal) : videoSetCursor s = .refused e ↔
    (25 ≤ (s.reg8 .dh).toNat ∨ 80 ≤ (s.reg8 .dl).toNat) ∧ e = .cursorOutOfRange (s.reg8 .dh) (s.reg8 .dl) := by
  unfold videoSetCursor
  split
  next hin => exact ⟨nofun, fun h => by omega⟩
  next hout =>
    rw [refused_eq_refused_iff]
    exact ⟨fun h => ⟨by omega, h⟩, And.right⟩

/-- A scroll is refused for a window that is not empty and reaches off the screen (R303, R309; log entry 18). -/
theorem State.scrollWindow_refused (s : State) (f : Nat → Nat → TextCell) (e : Refusal) :
    s.scrollWindow f = .refused e ↔
      (s.reg8 .ch).toNat ≤ (s.reg8 .dh).toNat ∧ (s.reg8 .cl).toNat ≤ (s.reg8 .dl).toNat ∧
      (25 ≤ (s.reg8 .dh).toNat ∨ 80 ≤ (s.reg8 .dl).toNat) ∧ e = .windowOutOfRange (s.reg8 .dh) (s.reg8 .dl) := by
  unfold State.scrollWindow
  simp only [BitVec.lt_def]
  split
  next hempty => exact ⟨nofun, fun h => by omega⟩
  split
  next hempty hout =>
    rw [refused_eq_refused_iff]
    exact ⟨fun h => ⟨by omega, by omega, hout, h⟩, fun ⟨_, _, _, he⟩ => he⟩
  next hempty hin => exact ⟨nofun, fun ⟨_, _, hout, _⟩ => absurd hout hin⟩

/-- The refusal of a service that needs the cursor, when it is off the screen (R303, U25). -/
def State.CursorRefusal (s : State) (e : Refusal) : Prop :=
  (25 ≤ s.bios.curRow.toNat ∨ 80 ≤ s.bios.curCol.toNat) ∧ e = .cursorOutOfRange s.bios.curRow s.bios.curCol

/-- A service that needs the cursor and else goes on. -/
theorem State.ifCursorOk_refused (s t : State) (e : Refusal) :
    (if s.cursorOk then .next t else s.refuseCursor) = (.refused e : Answer) ↔ s.CursorRefusal e := by
  unfold State.CursorRefusal
  rw [← s.cursorOk_false]
  cases s.cursorOk with
  | true => exact ⟨nofun, nofun⟩
  | false =>
    show s.refuseCursor = _ ↔ _
    rw [State.refuseCursor, refused_eq_refused_iff]
    exact ⟨fun h => ⟨rfl, h⟩, And.right⟩

/-- A service that writes one cell at the cursor (R312, R313; log entry 17). -/
theorem State.ifCountOne_refused (s t : State) (e : Refusal) :
    (if s.cx ≠ 1 then .refused (.repeatCountNotOne s.cx) else if s.cursorOk then .next t else s.refuseCursor) =
      (.refused e : Answer) ↔ (s.cx ≠ 1 ∧ e = .repeatCountNotOne s.cx) ∨ (s.cx = 1 ∧ s.CursorRefusal e) := by
  by_cases hcx : s.cx = 1
  · rw [if_neg (not_not.2 hcx), s.ifCursorOk_refused]
    exact ⟨fun h => .inr ⟨hcx, h⟩, fun h => h.elim (fun h => absurd hcx h.1) And.right⟩
  · rw [if_pos hcx, refused_eq_refused_iff]
    exact ⟨fun h => .inl ⟨hcx, h⟩, fun h => h.elim And.right fun h => absurd h.1 hcx⟩

/-- What INT 10h refuses, function by function. -/
theorem serviceVideo_refused (s : State) (e : Refusal) : serviceVideo s = .refused e ↔
    (s.reg8 .ah = 0x02 ∧ (25 ≤ (s.reg8 .dh).toNat ∨ 80 ≤ (s.reg8 .dl).toNat) ∧
      e = .cursorOutOfRange (s.reg8 .dh) (s.reg8 .dl)) ∨
    ((s.reg8 .ah = 0x06 ∨ s.reg8 .ah = 0x07) ∧ (s.reg8 .ch).toNat ≤ (s.reg8 .dh).toNat ∧
      (s.reg8 .cl).toNat ≤ (s.reg8 .dl).toNat ∧ (25 ≤ (s.reg8 .dh).toNat ∨ 80 ≤ (s.reg8 .dl).toNat) ∧
      e = .windowOutOfRange (s.reg8 .dh) (s.reg8 .dl)) ∨
    ((s.reg8 .ah = 0x09 ∨ s.reg8 .ah = 0x0A) ∧ s.cx ≠ 1 ∧ e = .repeatCountNotOne s.cx) ∨
    (s.CursorRefusal e ∧
      (s.reg8 .ah = 0x08 ∨ s.reg8 .ah = 0x0E ∨ ((s.reg8 .ah = 0x09 ∨ s.reg8 .ah = 0x0A) ∧ s.cx = 1))) := by
  unfold serviceVideo
  simp only [← BitVec.toNat_inj (x := s.reg8 .ah)]
  split
  next h => simp [h, videoSetMode]
  next h => simp [h, videoSetShape]
  next h => simp [h, videoSetCursor_refused]
  next h => simp [h, videoGetCursor]
  next h => simp [h, videoSelectPage]
  next h => simp [h, videoScrollUp, State.scrollWindow_refused]
  next h => simp [h, videoScrollDown, State.scrollWindow_refused]
  next h => simp [h, videoReadCell, State.ifCursorOk_refused]
  next h => rw [videoWriteCell, State.writeAtCursor, State.ifCountOne_refused]; simp [h, and_comm]
  next h => rw [videoWriteChar, State.ifCountOne_refused]; simp [h, and_comm]
  next h => simp [h, videoTeletype, State.teletype, State.ifCursorOk_refused]
  next _ _ h2 _ _ h6 h7 h8 h9 hA hE =>
    simp [eq_false h2, eq_false h6, eq_false h7, eq_false h8, eq_false h9, eq_false hA, eq_false hE]

theorem State.readKey_cursorRefusal (s : State) (e : Refusal) : s.readKey.CursorRefusal e ↔ s.CursorRefusal e := by
  unfold State.readKey
  split <;> rfl

/-- DOS input is refused for its echo (R330; log entry 28). -/
theorem dosInput_refused (s : State) (e : Refusal) : dosInput s = .refused e ↔
    s.CursorRefusal e ∧ (s.bios.kbd.keys ≠ [] ∨ s.params.dosInputEmpty = .echoNul) := by
  unfold dosInput
  split
  next hk hp => simp [hk, hp, drawAfter]
  next hecho =>
    have hcond : s.bios.kbd.keys ≠ [] ∨ s.params.dosInputEmpty = .echoNul := by
      cases hp : s.params.dosInputEmpty with
      | echoNul => exact .inr rfl
      | noEcho => exact .inl fun hk => hecho hk hp
    rw [drawAfter_refused, State.teletype, State.ifCursorOk_refused, State.readKey_cursorRefusal]
    exact ⟨fun h => ⟨h, hcond⟩, And.left⟩

theorem dosString_refused (s : State) (e : Refusal) : dosString s = .refused e ↔
    s.CursorRefusal e ∧ s.memRead8 (lin s.ds s.dx) ≠ 0x24 := by
  have hfuel : dosPrintFuel ≠ 0 := pow_ne_zero _ (pow_ne_zero _ two_ne_zero)
  obtain ⟨n, hn⟩ := Nat.exists_eq_succ_of_ne_zero hfuel
  rw [dosString, hn, dosPrint_refused, State.cursorOk_false, State.CursorRefusal]
  exact ⟨fun ⟨hc, h24, he⟩ => ⟨⟨hc, he⟩, h24⟩, fun ⟨⟨hc, he⟩, h24⟩ => ⟨hc, h24, he⟩⟩

/-- What INT 21h refuses, function by function. -/
theorem serviceDos_refused (s : State) (e : Refusal) : serviceDos s = .refused e ↔
    s.CursorRefusal e ∧ (s.reg8 .ah = 0x02 ∨
      (s.reg8 .ah = 0x01 ∧ (s.bios.kbd.keys ≠ [] ∨ s.params.dosInputEmpty = .echoNul)) ∨
      (s.reg8 .ah = 0x09 ∧ s.memRead8 (lin s.ds s.dx) ≠ 0x24)) := by
  unfold serviceDos
  simp only [← BitVec.toNat_inj (x := s.reg8 .ah)]
  split
  next h => simp [h, dosInput_refused]
  next h => simp [h, dosOutput, drawAfter_refused, State.teletype, State.ifCursorOk_refused]
  next h => simp [h, dosString_refused]
  next h => simp [h, dosExit]
  next h1 h2 h9 _ => simp [eq_false h1, eq_false h2, eq_false h9]

theorem serviceDisk_ne_refused (s : State) (e : Refusal) : serviceDisk s ≠ .refused e := by
  unfold serviceDisk
  split <;> exact nofun

theorem serviceKeyboard_ne_refused (s : State) (e : Refusal) : serviceKeyboard s ≠ .refused e := by
  unfold serviceKeyboard keyboardCheck
  split
  case h_2 => split <;> exact nofun
  all_goals exact nofun

/-- INT refuses in the services of INT 10h and INT 21h only. -/
theorem execInt_ne_refused {n : Byte} (s : State) (e : Refusal) (h10 : n ≠ 0x10) (h21 : n ≠ 0x21) :
    execInt n s ≠ .refused e := by
  obtain ⟨hn, h⟩ | ⟨-, -, h⟩ | ⟨-, -, h⟩ := execInt_cases n s <;> rw [h]
  · have hmem := (intercepted_iff n).1 hn
    simp only [List.mem_cons, List.not_mem_nil, or_false] at hmem
    obtain rfl | rfl | rfl | rfl := hmem
    · exact absurd rfl h10
    · exact serviceDisk_ne_refused s e
    · exact serviceKeyboard_ne_refused s e
    · exact absurd rfl h21
  · exact nofun
  · exact nofun

/-- The refusal of an extension form that is not enabled, given as its opcode byte and that byte's
distance before IP, where MODRM_OPCODES names it (R119, R140; log entry 16). -/
def State.ExtensionRefusal (s : State) (disabled : Option (Byte × Nat)) (e : Refusal) : Prop :=
  ∃ (op : Byte) (k : Nat), disabled = some (op, k) ∧ op ∈ s.params.modrmOpcodes ∧
    e = .modrmOpcodeWithoutRule op (lin s.cs (s.ip - BitVec.ofNat 16 k))

theorem State.extensionRefusal_none (s : State) (e : Refusal) : ¬ s.ExtensionRefusal none e :=
  fun ⟨_, _, h, _⟩ => nomatch h

theorem extension_refused {enabled : Bool} {s t : State} {op : Byte} {n : Nat} (e : Refusal) :
    (if enabled then .next t else s.raiseInvalidBack op n) = (.refused e : Answer) ↔
      s.ExtensionRefusal (if enabled then none else some (op, n)) e := by
  cases enabled with
  | true => exact ⟨nofun, fun h => absurd h (s.extensionRefusal_none e)⟩
  | false =>
    refine (s.raiseInvalidOpcode_refused op _ e).trans ⟨fun h => ⟨op, n, rfl, h⟩, ?_⟩
    rintro ⟨op', k, hop, h⟩
    cases hop
    exact h

/-- An instruction that goes on is not refused, and is no disabled extension. -/
theorem refused_iff_of_next {i : Instr} {s t : State} (e : Refusal) (h : exec i s = .next t)
    (hext : disabledExtension s.params i = none) :
    exec i s = .refused e ↔ s.ExtensionRefusal (disabledExtension s.params i) e := by
  rw [h, hext]
  exact ⟨nofun, fun h => absurd h (s.extensionRefusal_none e)⟩

/-- Settles O58: INT by its two services that refuse, the extension opcodes by their check, and no other. -/
theorem servicesRefuseOnlyUnspecifiedCases : Obligations.ServicesRefuseOnlyUnspecifiedCases := by
  refine ⟨fun n s e => ?int, fun i s e hint => ?others⟩
  case int =>
    simp only [← reg8_ah, ← reg8_ch, ← reg8_cl, ← reg8_dh, ← reg8_dl]
    show execInt n s = _ ↔ _
    by_cases h10 : n = 0x10
    · subst h10
      show serviceVideo s = _ ↔ _
      simp [serviceVideo_refused, State.CursorRefusal, and_assoc]
    by_cases h21 : n = 0x21
    · subst h21
      show serviceDos s = _ ↔ _
      simp [serviceDos_refused, State.CursorRefusal, and_assoc]
    · simp only [h10, h21, false_and, and_false, or_false, iff_false]
      exact execInt_ne_refused s e h10 h21
  case others =>
    cases i with
    | int n => exact absurd rfl (hint n)
    | adcAl _ | adcAx _ | sbbAl _ | sbbAx _ | testAl _ | testAx _ => exact extension_refused e
    | _ => exact refused_iff_of_next e rfl rfl

end Sys2Proof.Machine

/-! ## The step (spec/40_engine_step.md): what a step runs, and the prefix loop that never ends -/

namespace Sys2Proof.Machine

/-! ### The prefix loop (R112, R115, R116) -/

/-- A run of prefix bytes at CS:IP is a list of prefixes. -/
theorem exists_beginsWithPrefixes {s : State} {k : Nat}
    (h : ∀ j < k, (prefixOfByte (s.memRead8 (lin s.cs (s.ip + BitVec.ofNat 16 j)))).isSome) :
    ∃ ps : List Prefix, ps.length = k ∧ BeginsWithPrefixes s ps := by
  refine ⟨List.ofFn fun j : Fin k => Option.get _ (h j j.isLt), List.length_ofFn, fun j hj => ?_⟩
  rw [List.getElem_ofFn, Option.some_get]

/-- Offset `o` of the code segment is at most 65535 bytes past IP, modulo 2^16 (R25, R113). -/
theorem exists_ip_add_eq (ip o : Word) : ∃ k < 65536, ip + BitVec.ofNat 16 k = o := by
  refine ⟨(o - ip).toNat, (o - ip).isLt, ?_⟩
  rw [BitVec.ofNat_toNat, BitVec.setWidth_eq, BitVec.add_comm, BitVec.sub_add_cancel]

/-- Where some byte of the code segment is no prefix, the prefixes from IP to the first such byte are fewer than
65536 (R116). -/
theorem exists_prefixes_of_nonprefix {s : State} {o : Word} (ho : prefixOfByte (s.memRead8 (lin s.cs o)) = none) :
    ∃ ps : List Prefix, ps.length < 65536 ∧ BeginsWithPrefixes s ps ∧
      prefixOfByte (s.memRead8 (lin s.cs (s.ip + BitVec.ofNat 16 ps.length))) = none := by
  obtain ⟨k, hk, rfl⟩ := exists_ip_add_eq s.ip o
  have hex : ∃ j : Nat, prefixOfByte (s.memRead8 (lin s.cs (s.ip + BitVec.ofNat 16 j))) = none := ⟨k, ho⟩
  obtain ⟨ps, hlen, hbegin⟩ := exists_beginsWithPrefixes (s := s) (k := Nat.find hex)
    fun j hj => Option.isSome_iff_ne_none.2 (Nat.find_min hex hj)
  refine ⟨ps, ?_, hbegin, ?_⟩ <;> rw [hlen]
  · exact (Nat.find_min' hex ho).trans_lt hk
  · exact Nat.find_spec hex

/-- A step runs the opcode past its prefixes, with these recorded (R112, R115). -/
theorem step_of_prefixes {s : State} {ps : List Prefix} (hhung : s.hung = false) (hhalted : s.halted = false)
    (hlen : ps.length < 65536) (hbegin : BeginsWithPrefixes s ps)
    (hstop : prefixOfByte (s.memRead8 (lin s.cs (s.ip + BitVec.ofNat 16 ps.length))) = none) :
    step s = runOpcode { ps.foldl State.recordPrefix s.clearPrefixes with ip := s.ip + BitVec.ofNat 16 ps.length } :=
  step_of_consumePrefixes hhung hhalted
    (State.consumePrefixes_eq ps 65535 s.clearPrefixes (Nat.le_of_lt_succ hlen) hbegin hstop)

/-- A hung state stays as it is, however long it runs (R116, R124; log entry 11). -/
theorem run_of_hung (n : Nat) {s : State} (h : s.hung = true) : run n s = .next s := by
  induction n with
  | zero => rfl
  | succ n ih =>
    unfold run
    split
    · rfl
    · rw [step_of_hung h]
      exact ih

/-- Settles O9: with prefixes only, the loop runs out of fuel; else it stops at the first byte, in the order from IP
round the segment, that is none. -/
theorem endlessPrefixesHang : Obligations.EndlessPrefixesHang := by
  intro s hhung hhalted
  refine ⟨fun hall => ⟨?hangs, fun n => run_of_hung n rfl⟩, fun ⟨o, ho⟩ => ?stops⟩
  case hangs => exact step_of_endless hhung hhalted (State.consumePrefixes_none prefixFuel s.clearPrefixes hall)
  case stops =>
    obtain ⟨ps, hlen, hbegin, hstop⟩ := exists_prefixes_of_nonprefix ho
    exact ⟨ps, hlen, hbegin, hstop, step_of_prefixes hhung hhalted hlen hbegin hstop⟩

/-! ### The instruction at CS:IP (R112, R122) -/

/-- Settles O5, which is O6 for no prefix at all. -/
theorem stepRunsTheDecodedInstruction : Obligations.StepRunsTheDecodedInstruction := by
  intro s i hhung hhalted hd hi
  have hip : s.ip + BitVec.ofNat 16 ([] : List Prefix).length = s.ip := BitVec.add_zero _
  have hrun := stepRunsThePrefixedInstruction s [] i hhung hhalted (by decide) nofun (by rwa [hip]) hi
  rw [List.length_nil, Nat.zero_add] at hrun
  exact hrun

end Sys2Proof.Machine

/-! ## Data movement (spec/42_data_movement.md): MOV from a direct offset, and XCHG with AX -/

namespace Sys2Proof.Machine

/-! ### MOV from a direct offset (R152, R153) -/

/-- MOV AL, moffs8 replaces the low half of AX (R23, R152). -/
theorem exec_movAlMoffs (off : Word) (s : State) : exec (.movAlMoffs off) s =
    .next { s with ax := (s.ax &&& 0xFF00) ||| (s.memRead8 (s.moffsAddr off)).setWidth 16 } := rfl

/-- MOV AX, moffs16 replaces the whole of AX (R153). -/
theorem exec_movAxMoffs (off : Word) (s : State) : exec (.movAxMoffs off) s =
    .next { s with ax := s.memRead16 (s.moffsAddr off) } := rfl

/-- Settles O38: both forms load from the operand's address, whose segment is the override's or DS. -/
theorem moveFromMemoryResults : Obligations.MoveFromMemoryResults := by
  intro off s seg
  have haddr : s.moffsAddr off = lin seg off := congrArg (lin · off) s.dataSeg_eq
  rw [exec_movAlMoffs, exec_movAxMoffs, haddr]
  exact ⟨withWord_eq 0xA0 off, withWord_eq 0xA1 off, rfl, rfl⟩

/-! ### XCHG AX, r16 and NOP (R156) -/

/-- XCHG puts the register's value in AX and the old AX in the register (R156). -/
theorem exec_xchgAx (r : Reg16) (s : State) :
    exec (.xchgAx r) s = .next ((s.setReg16 .ax (s.reg16 r)).setReg16 r s.ax) := rfl

/-- Settles O40: the two writes, register by register; for AX itself the second write undoes the first. -/
theorem exchangeResults : Obligations.ExchangeResults := by
  refine ⟨fun r s => ⟨rfl, ?exchange⟩, rfl, fun _ => rfl⟩
  case exchange =>
    rw [exec_xchgAx]
    cases r <;> rfl

end Sys2Proof.Machine

/-! ## The stack (spec/43_stack.md): pushes and pops, and the returns that pop what a push left -/

namespace Sys2Proof.Machine

/-! ### What a pop finds after a push (R170, R171, R178) -/

/-- A word store that both pages filter leaves the word there, under either policy (R56). -/
theorem read16_write16_of_readOnly (p : Params) (m : Memory) {a : Addr} (v : Word) (h0 : roAt p a = true)
    (h1 : roAt p (a + 1) = true) : Memory.read16 (Memory.write16 p m a v) a = Memory.read16 m a := by
  obtain ⟨hlow, hhigh, -⟩ := wordStored_write16 p m a v
  have hfilter : roAt p (match p.roWordPolicy with | .perByte => a + 1 | .firstByte => a) = true := by
    cases p.roWordPolicy with
    | perByte => exact h1
    | firstByte => exact h0
  unfold Memory.read16
  rw [hlow.trans (if_pos h0), hhigh.trans (if_pos hfilter)]

/-- A push is a word store at SS:(SP-2) (R170). -/
theorem State.push16_wordStored (s : State) (v : Word) :
    WordStored s.params s.mem (s.push16 v).mem (lin s.ss (s.sp - 2)) v :=
  wordStored_write16 _ _ _ _

/-- A pop right after a push returns the pushed word, where its two bytes are writable. -/
theorem State.stackTop_push16 {s : State} (v : Word) (h : WordWritable s.params (lin s.ss (s.sp - 2))) :
    (s.push16 v).stackTop = v :=
  read16_write16 s.params s.mem _ v h

/-- A pop right after a push returns the old memory word, where its two bytes are read-only (R178). -/
theorem State.stackTop_push16_of_readOnly {s : State} (v : Word) (h0 : roAt s.params (lin s.ss (s.sp - 2)) = true)
    (h1 : roAt s.params (lin s.ss (s.sp - 2) + 1) = true) :
    (s.push16 v).stackTop = s.memRead16 (lin s.ss (s.sp - 2)) :=
  read16_write16_of_readOnly s.params s.mem v h0 h1

/-- A pop undoes the move of SP that a push makes, modulo 2^16. -/
theorem State.popped_push16_sp (s : State) (v : Word) : (s.push16 v).popped.sp = s.sp :=
  BitVec.sub_add_cancel s.sp 2

/-! ### PUSH r16 and POP r16 (R172, R173) -/

theorem exec_pushR16 (r : Reg16) (s : State) : exec (.pushR16 r) s = .next (s.push16 (s.pushValue r)) := rfl

theorem exec_popR16 (r : Reg16) (s : State) : exec (.popR16 r) s = .next (s.popped.setReg16 r s.stackTop) := rfl

theorem State.pushValue_of_ne_sp (s : State) {r : Reg16} (h : r ≠ .sp) : s.pushValue r = s.reg16 r := by
  cases r with
  | sp => exact absurd rfl h
  | ax | cx | dx | bx | bp | si | di => rfl

/-- The value a push stores, for SP as PUSH_SP_VALUE says (R172, D23). -/
theorem State.pushValue_eq (s : State) (r : Reg16) : s.pushValue r =
    if r = .sp then (match s.params.pushSpValue with | .old => s.sp | .new => s.sp - 2) else s.reg16 r := by
  split
  next hr =>
    subst hr
    unfold State.pushValue
    cases s.params.pushSpValue <;> rfl
  next hr => exact s.pushValue_of_ne_sp hr

/-- Settles O43: the pop finds the pushed word or the old one, puts it in `q`, and moves SP back. -/
theorem pushThenPopRoundTrip : Obligations.PushThenPopRoundTrip := by
  intro r q s t u hr hq hpush hpop
  rw [exec_pushR16, s.pushValue_of_ne_sp hr] at hpush
  cases hpush
  rw [exec_popR16] at hpop
  cases hpop
  rw [State.reg16_setReg16_self]
  refine ⟨rfl, ?sp, State.stackTop_push16 _, State.stackTop_push16_of_readOnly _⟩
  case sp => exact (State.reg16_setReg16_ne _ _ hq.symm).trans (s.popped_push16_sp _)

/-- Settles O41: SP apart from the other registers, since PUSH SP depends on PUSH_SP_VALUE (D23) and POP SP writes SP
last (D24). -/
theorem pushAndPopRegisterResults : Obligations.PushAndPopRegisterResults := by
  intro r s pushed top
  have hpushed : s.pushValue r = pushed := s.pushValue_eq r
  refine ⟨⟨_, exec_pushR16 r s, hpushed ▸ s.push16_wordStored _⟩, ?pop⟩
  case pop =>
    rw [exec_popR16]
    by_cases hr : r = .sp
    · subst hr
      rfl
    · exact congrArg _ (if_neg hr).symm

/-! ### PUSHF and POPF (R174, R175) -/

theorem exec_pushf (s : State) : exec .pushf s = .next (s.push16 s.flags) := rfl

theorem exec_popf (s : State) :
    exec .popf s = .next { s with sp := s.sp + 2, flags := flagsLoad s.stackTop } := rfl

/-- Settles O42: the push stores FLAGS as it is, and the popped word goes through `FLAGS_LOAD`. -/
theorem pushAndPopFlagsResults : Obligations.PushAndPopFlagsResults := fun s =>
  ⟨⟨_, exec_pushf s, s.push16_wordStored s.flags⟩, ⟨_, exec_popf s, loadsFlags_flagsLoad s.stackTop⟩⟩

/-! ### RET and IRET (R250, R285) -/

theorem exec_call (d : Word) (s : State) : exec (.call d) s = .next { s.push16 s.ip with ip := s.ip + d } := rfl

theorem exec_ret (s : State) : exec .ret s = .next { s.popped with ip := s.stackTop } := rfl

/-- Settles O36: RET pops the return offset that CALL pushed, wherever IP went in between. -/
theorem callThenReturnComesBack : Obligations.CallThenReturnComesBack := by
  intro d x s t hwritable hcall
  rw [exec_call] at hcall
  cases hcall
  have htop : (s.push16 s.ip).stackTop = s.ip := State.stackTop_push16 s.ip hwritable
  have hsp : (s.push16 s.ip).popped.sp = s.sp := s.popped_push16_sp s.ip
  calc exec .ret { s.push16 s.ip with ip := x }
    _ = .next { s.push16 s.ip with ip := (s.push16 s.ip).stackTop, sp := (s.push16 s.ip).popped.sp } := exec_ret _
    _ = .next { s.push16 s.ip with ip := s.ip, sp := s.sp } := by rw [htop, hsp]

theorem word_add_two_two (w : Word) : w + 2 + 2 = w + 4 := by bv_omega

/-- IRET's three pops are at SP, SP + 2 and SP + 4 (R285). -/
theorem exec_iret (s : State) : exec .iret s = .next { s with
    ip := s.memRead16 (lin s.ss s.sp)
    cs := s.memRead16 (lin s.ss (s.sp + 2))
    flags := flagsLoad (s.memRead16 (lin s.ss (s.sp + 4)))
    sp := s.sp + 6 } := by
  rw [← word_add_two_two]
  rfl

/-- Settles O48: the third word popped goes through `FLAGS_LOAD`. -/
theorem interruptReturnRestores : Obligations.InterruptReturnRestores := fun s =>
  ⟨rfl, _, exec_iret s, loadsFlags_flagsLoad _⟩

end Sys2Proof.Machine

/-! ## Arithmetic and logic (spec/44_arith_logic.md): the accumulator forms, INC and DEC, and what the flags mean -/

namespace Sys2Proof.Machine

/-! ### What the flag expressions of additions and subtractions mean (R191, R192, R198) -/

/-- The spec's OF of an addition is the library's signed overflow (R191, R198). -/
theorem addOverflow_eq_saddOverflow {w : Nat} (a b : BitVec w) : addOverflow a b (a + b) = a.saddOverflow b := by
  rw [addOverflow, BitVec.msb_and, BitVec.msb_xor, BitVec.msb_xor, BitVec.saddOverflow_eq]
  cases a.msb <;> cases b.msb <;> cases (a + b).msb <;> rfl

/-- The spec's OF of a subtraction is the library's signed overflow (R192, R198). -/
theorem subOverflow_eq_ssubOverflow {w : Nat} (a b : BitVec w) : subOverflow a b (a - b) = a.ssubOverflow b := by
  rw [subOverflow, BitVec.msb_and, BitVec.msb_xor, BitVec.msb_xor, BitVec.ssubOverflow_eq]
  cases a.msb <;> cases b.msb <;> cases (a - b).msb <;> rfl

/-- AF of an addition is the carry out of bit 3 (R191). -/
theorem auxBit_add {w : Nat} (hw : 4 < w) (a b : BitVec w) :
    auxBit a b (a + b) = decide (a.toNat % 16 + b.toNat % 16 > 15) := by
  have hcarry : auxBit a b (a + b) = BitVec.carry 4 a b false := by
    rw [auxBit, BitVec.getLsbD_xor, BitVec.getLsbD_xor, BitVec.getLsbD_add hw]
    cases a.getLsbD 4 <;> cases b.getLsbD 4 <;> simp
  rw [hcarry]
  rfl

/-- AF of a subtraction is the borrow into bit 4: the carry out of bit 3 when `b` is added back (R192). -/
theorem auxBit_sub {w : Nat} (hw : 4 < w) (a b : BitVec w) :
    auxBit a b (a - b) = decide (a.toNat % 16 < b.toNat % 16) := by
  have hback : a - b + b = a := BitVec.sub_add_cancel a b
  have haux : auxBit a b (a - b) = auxBit (a - b) b (a - b + b) := by
    rw [hback, auxBit, auxBit]
    ac_rfl
  have hlow : ((a - b).toNat % 16 + b.toNat % 16) % 16 = a.toNat % 16 := by
    have hdvd : 16 ∣ 2 ^ w := pow_dvd_pow 2 hw.le
    rw [← Nat.add_mod, ← Nat.mod_mod_of_dvd _ hdvd, ← BitVec.toNat_add, hback]
  rw [haux, auxBit_add hw, decide_eq_decide]
  omega

/-- The sign of a difference, corrected by signed overflow, orders the operands (R230). -/
theorem msb_sub_eq_ssubOverflow_iff {w : Nat} (a b : BitVec w) :
    (a - b).msb = a.ssubOverflow b ↔ b.toInt ≤ a.toInt := by
  cases hovf : a.ssubOverflow b with
  | false =>
    have hsub : (a - b).toInt = a.toInt - b.toInt := BitVec.toInt_sub_of_not_ssubOverflow (by simp [hovf])
    simp [BitVec.msb_eq_toInt, hsub]
  | true =>
    have hsigns := BitVec.ssubOverflow_eq a b ▸ hovf
    rw [BitVec.msb_eq_toInt (x := a), BitVec.msb_eq_toInt (x := b)] at hsigns
    cases hr : (a - b).msb with
    | false =>
      obtain ⟨ha, hb⟩ : a.toInt < 0 ∧ 0 ≤ b.toInt := by simpa [hr] using hsigns
      simpa using ha.trans_le hb
    | true =>
      obtain ⟨ha, hb⟩ : 0 ≤ a.toInt ∧ b.toInt < 0 := by simpa [hr] using hsigns
      simpa using hb.le.trans ha

/-- Signed overflow of an addition: the exact sum does not fit the width (R198). -/
theorem saddOverflow_eq_decide {w : Nat} (a b : BitVec w) : a.saddOverflow b =
    decide (a.toInt + b.toInt < -2 ^ (w - 1) ∨ 2 ^ (w - 1) - 1 < a.toInt + b.toInt) := by
  rw [BitVec.saddOverflow, Bool.or_comm, ← Bool.decide_or, decide_eq_decide, ge_iff_le, Int.sub_one_lt_iff]

/-- Signed overflow of a subtraction: the exact difference does not fit the width (R198). -/
theorem ssubOverflow_eq_decide {w : Nat} (a b : BitVec w) : a.ssubOverflow b =
    decide (a.toInt - b.toInt < -2 ^ (w - 1) ∨ 2 ^ (w - 1) - 1 < a.toInt - b.toInt) := by
  rw [BitVec.ssubOverflow, Bool.or_comm, ← Bool.decide_or, decide_eq_decide, ge_iff_le, Int.sub_one_lt_iff]

/-! ### The status bits of an addition and of a subtraction (R191, R192) -/

/-- FLAGS after an addition, with OF and AF by their meaning (R191, R198). -/
theorem statusBits_flagsAdd {w : Nat} (hw : 4 < w) (f : Word) (a b : BitVec w) :
    StatusBits f (flagsAdd f a b) (decide (2 ^ w ≤ a.toNat + b.toNat)) (evenOnes ((a + b).setWidth 8))
      (decide (a.toNat % 16 + b.toNat % 16 > 15)) (a + b == 0) (a + b).msb (a.saddOverflow b) := by
  rw [← auxBit_add hw, ← addOverflow_eq_saddOverflow]
  exact statusBits_putStatus _ _ _ _ _

/-- FLAGS after a subtraction, with OF and AF by their meaning (R192, R198). -/
theorem statusBits_flagsSub {w : Nat} (hw : 4 < w) (f : Word) (a b : BitVec w) :
    StatusBits f (flagsSub f a b) (decide (a.toNat < b.toNat)) (evenOnes ((a - b).setWidth 8))
      (decide (a.toNat % 16 < b.toNat % 16)) (a - b == 0) (a - b).msb (a.ssubOverflow b) := by
  rw [← auxBit_sub hw, ← subOverflow_eq_ssubOverflow]
  exact statusBits_putStatus _ _ _ _ _

/-- What OF and AF of an addition mean (R191, R198). -/
theorem overflow_and_aux_flagsAdd {w : Nat} (hw : 4 < w) (f : Word) (a b : BitVec w) :
    (flagsAdd f a b).getLsbD 11 =
      decide (a.toInt + b.toInt < -2 ^ (w - 1) ∨ 2 ^ (w - 1) - 1 < a.toInt + b.toInt) ∧
    (flagsAdd f a b).getLsbD 4 = decide (a.toNat % 16 + b.toNat % 16 > 15) := by
  obtain ⟨-, -, haux, -, -, hovf, -⟩ := statusBits_flagsAdd hw f a b
  exact ⟨hovf.trans (saddOverflow_eq_decide a b), haux⟩

/-- What OF and AF of a subtraction mean (R192, R198). -/
theorem overflow_and_aux_flagsSub {w : Nat} (hw : 4 < w) (f : Word) (a b : BitVec w) :
    (flagsSub f a b).getLsbD 11 =
      decide (a.toInt - b.toInt < -2 ^ (w - 1) ∨ 2 ^ (w - 1) - 1 < a.toInt - b.toInt) ∧
    (flagsSub f a b).getLsbD 4 = decide (a.toNat % 16 < b.toNat % 16) := by
  obtain ⟨-, -, haux, -, -, hovf, -⟩ := statusBits_flagsSub hw f a b
  exact ⟨hovf.trans (ssubOverflow_eq_decide a b), haux⟩

/-! ### ADD, SUB and CMP with the accumulator (R200, R201, R206, R207, R210, R211) -/

theorem exec_addAl (b : Byte) (s : State) :
    exec (.addAl b) s = .next (s.putAl (s.reg8 .al + b) (flagsAdd s.flags (s.reg8 .al) b)) := rfl

theorem exec_addAx (b : Word) (s : State) :
    exec (.addAx b) s = .next (s.putAx (s.ax + b) (flagsAdd s.flags s.ax b)) := rfl

theorem exec_subAl (b : Byte) (s : State) :
    exec (.subAl b) s = .next (s.putAl (s.reg8 .al - b) (flagsSub s.flags (s.reg8 .al) b)) := rfl

theorem exec_subAx (b : Word) (s : State) :
    exec (.subAx b) s = .next (s.putAx (s.ax - b) (flagsSub s.flags s.ax b)) := rfl

theorem exec_cmpAl (b : Byte) (s : State) :
    exec (.cmpAl b) s = .next { s with flags := flagsSub s.flags (s.reg8 .al) b } := rfl

theorem exec_cmpAx (b : Word) (s : State) :
    exec (.cmpAx b) s = .next { s with flags := flagsSub s.flags s.ax b } := rfl

/-- Settles O29: `overflow_and_aux_flagsAdd` and `overflow_and_aux_flagsSub` at the two widths. -/
theorem overflowAndAuxFlagsMeanWhatTheySay : Obligations.OverflowAndAuxFlagsMeanWhatTheySay := by
  refine ⟨fun b s t h => ?addAl, fun b s t h => ?subAl, fun b s t h => ?addAx, fun b s t h => ?subAx⟩
  case addAl =>
    rw [exec_addAl, reg8_al] at h
    cases h
    exact overflow_and_aux_flagsAdd (by decide) s.flags (s.ax.extractLsb' 0 8) b
  case subAl =>
    rw [exec_subAl, reg8_al] at h
    cases h
    exact overflow_and_aux_flagsSub (by decide) s.flags (s.ax.extractLsb' 0 8) b
  case addAx =>
    rw [exec_addAx] at h
    cases h
    exact overflow_and_aux_flagsAdd (by decide) s.flags s.ax b
  case subAx =>
    rw [exec_subAx] at h
    cases h
    exact overflow_and_aux_flagsSub (by decide) s.flags s.ax b

/-- Settles O23: the statement's expressions are those of the flag engine, whose answer each form gives. -/
theorem addAndSubImmediateResults : Obligations.AddAndSubImmediateResults := by
  refine ⟨fun b s => ⟨rfl, ?addAl⟩, fun b s => ⟨withWord_eq _ b, ?addAx⟩, fun b s => ⟨rfl, ?subAl⟩,
    fun b s => ⟨withWord_eq _ b, ?subAx⟩⟩
  case addAl =>
    rw [exec_addAl, ← reg8_al, masked_aux_byte, masked_msb_byte]
    exact s.alResult_putAl _ _ _ _
  case addAx =>
    rw [exec_addAx, masked_aux_word, masked_msb_word]
    exact s.axResult_putAx _ _ _ _
  case subAl =>
    rw [exec_subAl, ← reg8_al, masked_aux_byte, masked_msb_byte]
    exact s.alResult_putAl _ _ _ _
  case subAx =>
    rw [exec_subAx, masked_aux_word, masked_msb_word]
    exact s.axResult_putAx _ _ _ _

/-- FLAGS replaced by the flag engine's word, in the terms of Safety.lean. -/
theorem State.flagsResult_putStatus {w : Nat} (s : State) (r : BitVec w) (cf ovf af : Bool) :
    FlagsResult s (.next { s with flags := putStatus s.flags r cf ovf af }) r cf af ovf :=
  ⟨_, rfl, by
    have h := statusBits_putStatus s.flags r cf ovf af
    rwa [BitVec.msb_eq_getLsbD_last] at h⟩

/-- Settles O24: CMP is the flag engine's word of SUB, written to FLAGS alone. -/
theorem compareImmediateResults : Obligations.CompareImmediateResults := by
  refine ⟨fun b s => ⟨rfl, ?cmpAl⟩, fun b s => ⟨withWord_eq _ b, ?cmpAx⟩⟩
  case cmpAl =>
    rw [exec_cmpAl, ← reg8_al, masked_aux_byte, masked_msb_byte]
    exact s.flagsResult_putStatus _ _ _ _
  case cmpAx =>
    rw [exec_cmpAx, masked_aux_word, masked_msb_word]
    exact s.flagsResult_putStatus _ _ _ _

/-! ### The jumps after a CMP (R230) -/

/-- The flags that the conditional jumps test order two operands, which read `a` and `b` as signed values, `x` and
`y` as unsigned ones. -/
structure OrdersOperands (s : State) (a b : Int) (x y : Nat) : Prop where
  carry : s.flag .carry = decide (x < y)
  zero : s.flag .zero = decide (x = y)
  signedZero : s.flag .zero = decide (a = b)
  signed : s.flag .sign = s.flag .overflow ↔ b ≤ a

/-- The flags of a subtraction order its operands (R192, R230). -/
theorem State.ordersOperands_of_flagsSub {w : Nat} (hw : 4 < w) {t : State} {f : Word} {u v : BitVec w}
    (h : t.flags = flagsSub f u v) : OrdersOperands t u.toInt v.toInt u.toNat v.toNat := by
  obtain ⟨hcarry, -, -, hzero, hsign, hovf, -⟩ := h ▸ statusBits_flagsSub hw f u v
  have heq : t.flag .zero = decide (u = v) := hzero.trans (decide_eq_decide.2 sub_eq_zero)
  exact {
    carry := hcarry
    zero := heq.trans (decide_eq_decide.2 BitVec.toNat_inj.symm)
    signedZero := heq.trans (decide_eq_decide.2 BitVec.toInt_inj.symm)
    signed := (Eq.congr hsign hovf).trans (msb_sub_eq_ssubOverflow_iff u v) }

/-- CMP AL, imm8 leaves flags that order AL and the immediate (R210). -/
theorem ordersOperands_cmpAl {b : Byte} {s t : State} (h : exec (.cmpAl b) s = .next t) :
    OrdersOperands t (s.ax.extractLsb' 0 8).toInt b.toInt (s.ax.extractLsb' 0 8).toNat b.toNat := by
  rw [exec_cmpAl, reg8_al] at h
  cases h
  exact State.ordersOperands_of_flagsSub (by decide) rfl

/-- CMP AX, imm16 leaves flags that order AX and the immediate (R211). -/
theorem ordersOperands_cmpAx {b : Word} {s t : State} (h : exec (.cmpAx b) s = .next t) :
    OrdersOperands t s.ax.toInt b.toInt s.ax.toNat b.toNat := by
  rw [exec_cmpAx] at h
  cases h
  exact State.ordersOperands_of_flagsSub (by decide) rfl

/-- A conditional jump whose test says `p` (R231). -/
theorem State.next_jumpIf (s : State) (d : Byte) {c : Bool} {p : Prop} [Decidable p] (h : c = true ↔ p) :
    (.next (s.jumpIf c d) : Answer) = .next (if p then { s with ip := s.ip + d.signExtend 16 } else s) :=
  congrArg _ (if_congr h rfl rfl)

/-- Settles O30: the flags of CMP order the operands, and each jump tests one of the orders. -/
theorem compareThenJumpComparesOperands : Obligations.CompareThenJumpComparesOperands := by
  intro d s t a b x y hcmp
  have h : OrdersOperands t a b x y := by
    obtain ⟨w, he, rfl, rfl, rfl, rfl⟩ | ⟨w, he, rfl, rfl, rfl, rfl⟩ := hcmp
    · exact ordersOperands_cmpAl he
    · exact ordersOperands_cmpAx he
  refine ⟨t.next_jumpIf d ?jb, t.next_jumpIf d ?jae, t.next_jumpIf d ?jbe, t.next_jumpIf d ?ja, t.next_jumpIf d ?jl,
    t.next_jumpIf d ?jge, t.next_jumpIf d ?jle, t.next_jumpIf d ?jg, t.next_jumpIf d ?je, t.next_jumpIf d ?jne⟩
  case jb => simp [h.carry]
  case jae => simp [h.carry]
  case jbe => simp [h.carry, h.zero, le_iff_lt_or_eq]
  case ja => simp [h.carry, h.zero]; omega
  case jl => simp [h.signed]
  case jge => simp [h.signed]
  case jle => simp [h.signed, h.signedZero]; omega
  case jg => simp [h.signed, h.signedZero]; omega
  case je => simp [h.zero]
  case jne => simp [h.zero]

/-! ### OR, AND and XOR with the accumulator (R193, R202 to R205, R208, R209) -/

/-- AL replaced by a logical result, with CF and OF clear and AF the draw (R193). -/
theorem State.alResult_logicFlags (s : State) (r : Byte) : ∃ af : Bool,
    AlResult { s with drawCount := s.drawCount + 1 } (.next ((s.setReg8 .al r).logicFlags r)) r false af false :=
  ⟨_, State.alResult_putAl { s with drawCount := s.drawCount + 1 } r false false (Config.freeBit s.drawCount)⟩

/-- AX replaced by a logical result, with CF and OF clear and AF the draw (R193). -/
theorem State.axResult_logicFlags (s : State) (r : Word) : ∃ af : Bool,
    AxResult { s with drawCount := s.drawCount + 1 } (.next ((s.setReg16 .ax r).logicFlags r)) r false af false :=
  ⟨_, State.axResult_putAx { s with drawCount := s.drawCount + 1 } r false false (Config.freeBit s.drawCount)⟩

/-- Settles O25: each form gives the logical result of the accumulator and its operand. -/
theorem logicImmediateResults : Obligations.LogicImmediateResults := by
  refine ⟨fun b s => ⟨rfl, rfl, rfl, ?bytes⟩,
    fun b s => ⟨withWord_eq _ b, withWord_eq _ b, withWord_eq _ b, ?words⟩⟩
  case bytes =>
    simp only [← reg8_al]
    exact ⟨s.alResult_logicFlags _, s.alResult_logicFlags _, s.alResult_logicFlags _⟩
  case words => exact ⟨s.axResult_logicFlags _, s.axResult_logicFlags _, s.axResult_logicFlags _⟩

/-! ### INC and DEC (R197, R212, R213) -/

/-- FLAGS of INC and DEC: the flag engine's word with CF restored (R197). -/
theorem statusBits_putStatus_keepCarry (f r : Word) (cf ovf af : Bool) :
    StatusBits f (putFlag (putStatus f r cf ovf af) .carry (getFlag f .carry)) (f.getLsbD 0)
      (evenOnes (r.setWidth 8)) af (r == 0) (r.getLsbD 15) ovf := by
  have h := statusBits_restoreCarry (statusBits_putStatus f r cf ovf af)
  rwa [BitVec.msb_eq_getLsbD_last] at h

/-- Settles O26: addition and subtraction of 1 with CF restored, whichever register holds the value. -/
theorem incrementAndDecrementResults : Obligations.IncrementAndDecrementResults := by
  intro r s
  simp only [masked_aux_word, masked_msb_word]
  exact ⟨rfl, rfl, ⟨_, rfl, statusBits_putStatus_keepCarry _ _ _ _ _⟩,
    ⟨_, rfl, statusBits_putStatus_keepCarry _ _ _ _ _⟩⟩

end Sys2Proof.Machine

/-! ## Control transfer (spec/45_control_transfer.md): the jumps, CALL, RET and LOOP -/

namespace Sys2Proof.Machine

/-! ### Conditional short jumps (R231 to R247) -/

/-- A short jump whose test holds adds the sign-extended displacement to IP (R231). -/
theorem State.jumpIf_true (s : State) (d : Byte) : s.jumpIf true d = { s with ip := s.ip + d.signExtend 16 } := rfl

/-- A short jump whose test fails changes nothing (R231). -/
theorem State.jumpIf_false (s : State) (d : Byte) : s.jumpIf false d = s := rfl

/-- A form that runs as a short jump on a test jumps exactly under the condition that the test decides (R231). -/
theorem jumpsWhen_of_exec_eq_jumpIf {i : Byte → Instr} {op : Byte} {test : State → Bool} {c : State → Prop}
    (hencode : ∀ d, encode (i d) = [op, d]) (hexec : ∀ d s, exec (i d) s = .next (s.jumpIf (test s) d))
    (htest : ∀ s, test s = true ↔ c s) : JumpsWhen i op c := by
  refine fun d s => ⟨hencode d, fun hc => ?taken, fun hc => ?fallThrough⟩
  case taken => rw [hexec, (htest s).2 hc, State.jumpIf_true]
  case fallThrough => rw [hexec, Bool.eq_false_iff.2 (mt (htest s).1 hc), State.jumpIf_false]

/-- The test of a flag reads its bit of FLAGS (R10, R27). -/
theorem State.flag_iff (s : State) (n : Flag) : s.flag n = true ↔ s.flags.getLsbD n.bit = true := Iff.rfl

/-- The test that a flag is clear reads its bit of FLAGS (R10, R27). -/
theorem State.not_flag_iff (s : State) (n : Flag) : (!s.flag n) = true ↔ s.flags.getLsbD n.bit = false :=
  Bool.not_eq_eq_eq_not

/-- The test that SF and OF differ (R230). -/
theorem State.sign_bne_overflow_iff (s : State) :
    (s.flag .sign != s.flag .overflow) = true ↔ s.flags.getLsbD 7 ≠ s.flags.getLsbD 11 := bne_iff_ne

/-- The test that SF and OF agree (R230). -/
theorem State.sign_beq_overflow_iff (s : State) :
    (s.flag .sign == s.flag .overflow) = true ↔ s.flags.getLsbD 7 = s.flags.getLsbD 11 := beq_iff_eq

/-- Settles O31: each form is a short jump, and its test reads the bits that the condition names. -/
theorem jumpsOnOverflowCarryAndZero : Obligations.JumpsOnOverflowCarryAndZero := by
  refine ⟨?jo, ?jno, ?jb, ?jae, ?je, ?jne, ?jbe, ?ja⟩ <;>
    refine jumpsWhen_of_exec_eq_jumpIf (fun _ => rfl) (fun _ _ => rfl) fun s => ?_
  case jo => exact s.flag_iff .overflow
  case jno => exact s.not_flag_iff .overflow
  case jb => exact s.flag_iff .carry
  case jae => exact s.not_flag_iff .carry
  case je => exact s.flag_iff .zero
  case jne => exact s.not_flag_iff .zero
  case jbe => exact Bool.or_eq_true_iff.trans (or_congr (s.flag_iff .carry) (s.flag_iff .zero))
  case ja => exact Bool.and_eq_true_iff.trans (and_congr (s.not_flag_iff .carry) (s.not_flag_iff .zero))

/-- Settles O32: as for O31, with the signed tests on SF and OF. -/
theorem jumpsOnSignParityAndOrder : Obligations.JumpsOnSignParityAndOrder := by
  refine ⟨?js, ?jns, ?jp, ?jnp, ?jl, ?jge, ?jle, ?jg⟩ <;>
    refine jumpsWhen_of_exec_eq_jumpIf (fun _ => rfl) (fun _ _ => rfl) fun s => ?_
  case js => exact s.flag_iff .sign
  case jns => exact s.not_flag_iff .sign
  case jp => exact s.flag_iff .parity
  case jnp => exact s.not_flag_iff .parity
  case jl => exact s.sign_bne_overflow_iff
  case jge => exact s.sign_beq_overflow_iff
  case jle => exact Bool.or_eq_true_iff.trans (or_congr (s.flag_iff .zero) s.sign_bne_overflow_iff)
  case jg => exact Bool.and_eq_true_iff.trans (and_congr (s.not_flag_iff .zero) s.sign_beq_overflow_iff)

/-! ### JMP, RET and CALL (R248 to R250) -/

/-- JMP is a short jump without a test (R248). -/
theorem exec_jmp (d : Byte) (s : State) : exec (.jmp d) s = .next (s.jumpRel8 d) := rfl

/-- Settles O33: JMP moves IP alone, and RET moves IP and SP. -/
theorem jumpAndReturnResults : Obligations.JumpAndReturnResults :=
  ⟨fun d s => ⟨rfl, exec_jmp d s⟩, rfl, exec_ret⟩

/-- Settles O34: CALL is a push of the return offset, which stores it, and then a move of IP. -/
theorem callResult : Obligations.CallResult := fun d s =>
  ⟨withWord_eq 0xE8 d, _, exec_call d s, s.push16_wordStored s.ip⟩

/-! ### LOOP (R251) -/

/-- LOOP is a short jump on the decremented CX (R251). -/
theorem exec_loop (d : Byte) (s : State) :
    exec (.loop d) s = .next (({ s with cx := s.cx - 1 } : State).jumpIf (s.cx - 1 != 0) d) := rfl

/-- Settles O35: the decremented CX is zero exactly when CX was 1. -/
theorem loopResult : Obligations.LoopResult := by
  refine fun d s => ⟨rfl, ?_⟩
  rw [exec_loop]
  by_cases hcx : s.cx = 1
  · have htest : (s.cx - 1 != 0) = false := bne_eq_false_iff_eq.2 (sub_eq_zero.2 hcx)
    rw [htest, State.jumpIf_false, if_pos hcx]
  · have htest : (s.cx - 1 != 0) = true := bne_iff_ne.2 (sub_ne_zero.2 hcx)
    rw [htest, State.jumpIf_true, if_neg hcx]

end Sys2Proof.Machine

/-! ## Flag control (spec/46_flag_and_system.md): CLC, STC, CLI, STI, CLD and STD (R260 to R265) -/

namespace Sys2Proof.Machine

theorem exec_clc (s : State) : exec .clc s = .next (s.setFlag .carry false) := rfl
theorem exec_stc (s : State) : exec .stc s = .next (s.setFlag .carry true) := rfl
theorem exec_cli (s : State) : exec .cli s = .next (s.setFlag .interrupt false) := rfl
theorem exec_sti (s : State) : exec .sti s = .next (s.setFlag .interrupt true) := rfl
theorem exec_cld (s : State) : exec .cld s = .next (s.setFlag .direction false) := rfl
theorem exec_std (s : State) : exec .std s = .next (s.setFlag .direction true) := rfl

/-- An instruction that sets one flag answers a next state that differs in that flag's bit of FLAGS alone. -/
theorem oneBit_of_exec_eq_setFlag {i : Instr} {s : State} {n : Flag} {b : Bool}
    (h : exec i s = .next (s.setFlag n b)) :
    ∃ f : Word, exec i s = .next { s with flags := f } ∧ OneBit s.flags f n.bit b :=
  ⟨putFlag s.flags n b, h, oneBit_putFlag s.flags n b⟩

/-- Settles O44: each form sets one flag, and a flag is one bit of FLAGS. -/
theorem flagControlResults : Obligations.FlagControlResults := by
  refine ⟨rfl, rfl, rfl, rfl, rfl, rfl, fun s => ⟨?clc, ?stc, ?cli, ?sti, ?cld, ?std⟩⟩
  case clc => exact oneBit_of_exec_eq_setFlag (exec_clc s)
  case stc => exact oneBit_of_exec_eq_setFlag (exec_stc s)
  case cli => exact oneBit_of_exec_eq_setFlag (exec_cli s)
  case sti => exact oneBit_of_exec_eq_setFlag (exec_sti s)
  case cld => exact oneBit_of_exec_eq_setFlag (exec_cld s)
  case std => exact oneBit_of_exec_eq_setFlag (exec_std s)

end Sys2Proof.Machine

/-! ## Software interrupts (spec/47_interrupts.md): what a service leaves alone, null entries, and INT then IRET -/

namespace Sys2Proof.Machine

theorem exec_int (n : Byte) (s : State) : exec (.int n) s = execInt n s := rfl

/-! ### Intercepted vectors (R282, R300, R302) -/

/-- INT of an intercepted vector runs its service (R282). -/
theorem execInt_service {n : Byte} (s : State) (hn : n ∈ [0x10, 0x13, 0x16, 0x21]) : execInt n s = service n s :=
  if_pos ((intercepted_iff n).2 hn)

/-- A function number that its vector does not list takes the last row of the service's dispatch, which does nothing
(R302). -/
theorem service_of_unlisted {n : Byte} {s : State} (hn : n ∈ [0x10, 0x13, 0x16, 0x21])
    (h : (s.reg8 .ah).toNat ∉ listedFunctions n) : service n s = .next s := by
  simp only [List.mem_cons, List.not_mem_nil, or_false] at hn
  obtain rfl | rfl | rfl | rfl := hn <;>
    simp only [listedFunctions, BitVec.reduceEq, if_true, if_false, List.mem_cons, List.not_mem_nil, or_false,
      not_or] at h
  · simp [service, serviceVideo, h]
  · simp [service, serviceDisk, h]
  · simp [service, serviceKeyboard, h]
  · simp [service, serviceDos, h]

/-- Settles O50: what any service can change (`ServiceChange`), and the functions that no service lists. -/
theorem servicesKeepTheRest : Obligations.ServicesKeepTheRest := by
  refine ⟨fun n s t hn hint => ?change, fun n s hn hah => ?unlisted⟩
  case change =>
    rw [exec_int, execInt_service s hn] at hint
    have hc := service_next hint
    rw [hc.rest]
    exact ⟨rfl, rfl, rfl, rfl, rfl, rfl, rfl, rfl, rfl, rfl, rfl, rfl, rfl, rfl, rfl, rfl, rfl, hc.flags, hc.frame⟩
  case unlisted =>
    rw [← reg8_ah] at hah
    rw [exec_int, execInt_service s hn, service_of_unlisted hn hah]

/-! ### Null entries (R284) -/

/-- Settles O47: of the three ways of INT, a vector that is not intercepted takes the one for an ignored null entry. -/
theorem interruptThroughNullEntryIsIgnored : Obligations.InterruptThroughNullEntryIsIgnored := by
  intro n s hn hignored hip hcs
  have hnull : (s.params.ivtNullIgnored && s.ivtNull n) = true := by
    rw [hignored, Bool.true_and, s.ivtNull_iff]
    exact ⟨hip, hcs⟩
  obtain ⟨hi, -⟩ | ⟨-, -, e⟩ | ⟨-, hnot, -⟩ := execInt_cases n s
  · exact absurd ((intercepted_iff n).1 hi) hn
  · exact e
  · exact absurd (hnull.symm.trans hnot) (by decide)

/-! ### IRET on the frame that INT pushed (R283, R285, R286, R358) -/

/-- Words two or more offsets apart in a segment, modulo 2^16, stay so as linear addresses, modulo 2^20 (R52). -/
theorem two_le_lin_sub (seg : Word) {o o' : Word} (h : 2 ≤ (o - o').toNat) :
    2 ≤ (lin seg o - lin seg o').toNat := by
  unfold lin
  bv_omega

/-- A word store in a segment leaves a word two or more offsets away. -/
theorem read16_write16_lin_ne (p : Params) (m : Memory) (seg : Word) {o o' : Word} (v : Word)
    (h : 2 ≤ (o' - o).toNat) (h' : 2 ≤ (o - o').toNat) :
    Memory.read16 (Memory.write16 p m (lin seg o) v) (lin seg o') = Memory.read16 m (lin seg o') :=
  read16_write16_ne p m _ _ v (two_le_lin_sub seg h) (two_le_lin_sub seg h')

theorem State.read16_frameMem_ip {s : State} (h : WordWritable s.params (lin s.ss (s.sp - 6))) :
    Memory.read16 s.frameMem (lin s.ss (s.sp - 6)) = s.ip :=
  read16_write16 _ _ _ _ h

/-- The push of IP leaves the word of CS. -/
theorem State.read16_frameMem_cs {s : State} (h : WordWritable s.params (lin s.ss (s.sp - 4))) :
    Memory.read16 s.frameMem (lin s.ss (s.sp - 4)) = s.cs := by
  unfold State.frameMem
  rw [read16_write16_lin_ne _ _ _ _ (by bv_omega) (by bv_omega), read16_write16 _ _ _ _ h]

/-- The pushes of CS and IP leave the word of FLAGS. -/
theorem State.read16_frameMem_flags {s : State} (h : WordWritable s.params (lin s.ss (s.sp - 2))) :
    Memory.read16 s.frameMem (lin s.ss (s.sp - 2)) = s.flags := by
  unfold State.frameMem
  rw [read16_write16_lin_ne _ _ _ _ (by bv_omega) (by bv_omega),
    read16_write16_lin_ne _ _ _ _ (by bv_omega) (by bv_omega), read16_write16 _ _ _ _ h]

/-- IRET undoes the entry through the vector table up to the stack words and what `FLAGS_LOAD` makes of FLAGS, wherever
CS:IP went in between (R286). -/
theorem exec_iret_enterInterrupt (n : Byte) (x y : Word) {s : State}
    (hflags : WordWritable s.params (lin s.ss (s.sp - 2))) (hcs : WordWritable s.params (lin s.ss (s.sp - 4)))
    (hip : WordWritable s.params (lin s.ss (s.sp - 6))) :
    exec .iret { s.enterInterrupt n with ip := x, cs := y } =
      .next { s with mem := s.frameMem, flags := flagsLoad s.flags } := by
  have hcsAt : s.sp - 6 + 2 = s.sp - 4 := by bv_omega
  have hflagsAt : s.sp - 6 + 4 = s.sp - 2 := by bv_omega
  have hsp : s.sp - 6 + 6 = s.sp := BitVec.sub_add_cancel s.sp 6
  rw [s.enterInterrupt_eq n, exec_iret]
  simp only [State.memRead16, hcsAt, hflagsAt, hsp, State.read16_frameMem_ip hip, State.read16_frameMem_cs hcs,
    State.read16_frameMem_flags hflags]

/-- Settles O49: INT enters through the table, and IRET undoes the entry. -/
theorem interruptThenReturnComesBack : Obligations.InterruptThenReturnComesBack := by
  intro n x y s t hn hentry hflags hcs hip hint
  rw [exec_int, execInt_enter hn hentry] at hint
  cases hint
  exact ⟨_, exec_iret_enterInterrupt n x y hflags hcs hip, rfl, rfl, rfl, loadsFlags_flagsLoad s.flags⟩

end Sys2Proof.Machine

/-! ## BIOS services (spec/48_bios_services.md): the screen, teletype output, the disk stubs and DOS string output -/

namespace Sys2Proof.Machine

/-! ### The functions of INT 10h (R304 to R314) -/

theorem exec_int_video (s : State) : exec (.int 0x10) s = serviceVideo s := rfl

theorem serviceVideo_setMode {s : State} (h : s.reg8 .ah = 0x00) : serviceVideo s = videoSetMode s := by
  rw [serviceVideo, h]; rfl

theorem serviceVideo_setShape {s : State} (h : s.reg8 .ah = 0x01) : serviceVideo s = videoSetShape s := by
  rw [serviceVideo, h]; rfl

theorem serviceVideo_setCursor {s : State} (h : s.reg8 .ah = 0x02) : serviceVideo s = videoSetCursor s := by
  rw [serviceVideo, h]; rfl

theorem serviceVideo_getCursor {s : State} (h : s.reg8 .ah = 0x03) : serviceVideo s = videoGetCursor s := by
  rw [serviceVideo, h]; rfl

theorem serviceVideo_selectPage {s : State} (h : s.reg8 .ah = 0x05) : serviceVideo s = videoSelectPage s := by
  rw [serviceVideo, h]; rfl

theorem serviceVideo_scrollUp {s : State} (h : s.reg8 .ah = 0x06) : serviceVideo s = videoScrollUp s := by
  rw [serviceVideo, h]; rfl

theorem serviceVideo_scrollDown {s : State} (h : s.reg8 .ah = 0x07) : serviceVideo s = videoScrollDown s := by
  rw [serviceVideo, h]; rfl

theorem serviceVideo_readCell {s : State} (h : s.reg8 .ah = 0x08) : serviceVideo s = videoReadCell s := by
  rw [serviceVideo, h]; rfl

theorem serviceVideo_writeCell {s : State} (h : s.reg8 .ah = 0x09) : serviceVideo s = videoWriteCell s := by
  rw [serviceVideo, h]; rfl

theorem serviceVideo_writeChar {s : State} (h : s.reg8 .ah = 0x0A) : serviceVideo s = videoWriteChar s := by
  rw [serviceVideo, h]; rfl

theorem serviceVideo_teletype {s : State} (h : s.reg8 .ah = 0x0E) : serviceVideo s = s.teletype (s.reg8 .al) := by
  rw [serviceVideo, h]; rfl

/-! ### Set mode and the scrolls (R304, R309, R310) -/

/-- Filling the screen gives every cell of it (R304, R315). -/
theorem State.readCell_fillScreen {s : State} (f : Nat → Nat → TextCell) (hw : TextWritable s.params) {r c : Nat}
    (hr : r < 25) (hc : c < 80) : (s.fillWindow 0 0 25 80 f).readCell r c = f r c := by
  rw [s.readCell_fillWindow f (by omega) (by omega) hw hr hc, if_pos (by omega)]

/-- A scroll of an empty window does nothing (R309; log entry 18). -/
theorem State.scrollWindow_empty {s : State} (f : Nat → Nat → TextCell)
    (h : (s.reg8 .dh).toNat < (s.reg8 .ch).toNat ∨ (s.reg8 .dl).toNat < (s.reg8 .cl).toNat) :
    s.scrollWindow f = .next s := if_pos h

/-- A scroll of a window on the screen fills it (R309, R310). -/
theorem State.scrollWindow_fill {s : State} (f : Nat → Nat → TextCell)
    (hrows : (s.reg8 .ch).toNat ≤ (s.reg8 .dh).toNat) (hcols : (s.reg8 .cl).toNat ≤ (s.reg8 .dl).toNat)
    (hbottom : (s.reg8 .dh).toNat < 25) (hright : (s.reg8 .dl).toNat < 80) :
    s.scrollWindow f = .next (s.fillWindow (s.reg8 .ch).toNat (s.reg8 .cl).toNat
      ((s.reg8 .dh).toNat - (s.reg8 .ch).toNat + 1) ((s.reg8 .dl).toNat - (s.reg8 .cl).toNat + 1) f) := by
  unfold State.scrollWindow
  rw [if_neg (by rw [BitVec.lt_def, BitVec.lt_def]; omega), if_neg (by omega)]

/-- Every cell of the screen after a scroll of a window on it: `f` inside the window, as before outside it. -/
theorem State.scrollWindow_cells {s : State} (f : Nat → Nat → TextCell) (hw : TextWritable s.params)
    (hrows : (s.reg8 .ch).toNat ≤ (s.reg8 .dh).toNat) (hcols : (s.reg8 .cl).toNat ≤ (s.reg8 .dl).toNat)
    (hbottom : (s.reg8 .dh).toNat < 25) (hright : (s.reg8 .dl).toNat < 80) :
    ∃ m : Memory, s.scrollWindow f = .next { s with mem := m } ∧
      ∀ r c : Nat, r < 25 → c < 80 → ({ s with mem := m } : State).readCell r c =
        if (s.reg8 .ch).toNat ≤ r ∧ r ≤ (s.reg8 .dh).toNat ∧ (s.reg8 .cl).toNat ≤ c ∧ c ≤ (s.reg8 .dl).toNat then f r c
        else s.readCell r c := by
  refine ⟨_, State.scrollWindow_fill f hrows hcols hbottom hright, fun r c hr hc => ?_⟩
  refine (s.readCell_fillWindow f (by omega) (by omega) hw hr hc).trans (if_congr ?_ rfl rfl)
  omega

/-- Set mode fills the screen with blank cells and homes the cursor (R304). -/
theorem videoSetMode_eq (s : State) : videoSetMode s = .next { s with
    mem := (s.fillWindow 0 0 25 80 fun _ _ => blankCell s.bios.attr).mem
    bios := { s.bios with videoMode := s.reg8 .al, curRow := 0, curCol := 0 } } := by
  rw [videoSetMode, State.fillWindow_eq]

/-- Settles O54: set mode fills the screen, and a scroll fills its window with the cells computed before. -/
theorem setModeAndScrollResults : Obligations.SetModeAndScrollResults := by
  intro s hw
  simp only [← reg8_ah, ← reg8_al, ← reg8_bh, ← reg8_ch, ← reg8_cl, ← reg8_dh, ← reg8_dl, exec_int_video]
  refine ⟨fun hah => ?setMode, fun hah hempty => ?empty, fun hah => ?up, fun hah => ?down⟩
  case setMode =>
    rw [serviceVideo_setMode hah]
    refine ⟨_, videoSetMode_eq s, fun r c hr hc => ?_⟩
    rw [← State.fillWindow_eq]
    exact State.readCell_fillScreen _ hw hr hc
  case empty =>
    obtain hah | hah := hah
    · rw [serviceVideo_scrollUp hah]
      exact State.scrollWindow_empty _ hempty
    · rw [serviceVideo_scrollDown hah]
      exact State.scrollWindow_empty _ hempty
  case up =>
    rw [serviceVideo_scrollUp hah]
    exact State.scrollWindow_cells (s.scrolledUp (s.reg8 .dh).toNat (s.reg8 .al).toNat (s.reg8 .bh)) hw
  case down =>
    rw [serviceVideo_scrollDown hah]
    exact State.scrollWindow_cells (s.scrolledDown (s.reg8 .ch).toNat (s.reg8 .al).toNat (s.reg8 .bh)) hw

/-! ### Teletype output (R314, R315) -/

/-- Every cell after `ScrollAll` (R315). -/
theorem State.readCell_scrollAll {s : State} (hw : TextWritable s.params) {r k : Nat} (hr : r < 25) (hk : k < 80) :
    s.scrollAll.readCell r k = if r < 24 then s.readCell (r + 1) k else (0x20, s.bios.attr) := by
  refine (State.readCell_fillScreen _ hw hr hk).trans (if_congr ?_ rfl rfl)
  omega

theorem State.readCell_setCursor (s : State) (row col : Byte) (r k : Nat) :
    (s.setCursor row col).readCell r k = s.readCell r k := rfl

theorem State.lineDown_bottom {s : State} (col : Byte) (h : s.bios.curRow.toNat = 24) :
    s.lineDown col = s.scrollAll.setCursor 24 col := if_pos (by bv_omega)

theorem State.lineDown_above {s : State} (col : Byte) (h : s.bios.curRow.toNat ≠ 24) :
    s.lineDown col = s.setCursor (s.bios.curRow + 1) col := if_neg (by bv_omega)

theorem State.lineDown_curRow {s : State} (col : Byte) (h : s.bios.curRow.toNat < 25) :
    (s.lineDown col).bios.curRow.toNat = if s.bios.curRow.toNat = 24 then 24 else s.bios.curRow.toNat + 1 := by
  split
  next hrow =>
    rw [State.lineDown_bottom col hrow, State.setCursor_bios_curRow]
    rfl
  next hrow =>
    rw [State.lineDown_above col hrow, State.setCursor_bios_curRow]
    bv_omega

theorem State.lineDown_curCol (s : State) (col : Byte) : (s.lineDown col).bios.curCol = col := by
  unfold State.lineDown
  split <;> rfl

/-- Every cell after a move down a row: the screen scrolls when the cursor is in row 24 (R315). -/
theorem State.readCell_lineDown {s : State} (col : Byte) (hw : TextWritable s.params) {r k : Nat} (hr : r < 25)
    (hk : k < 80) : (s.lineDown col).readCell r k =
      if s.bios.curRow.toNat = 24 then (if r < 24 then s.readCell (r + 1) k else (0x20, s.bios.attr))
      else s.readCell r k := by
  split
  next hrow =>
    rw [State.lineDown_bottom col hrow, State.readCell_setCursor]
    exact State.readCell_scrollAll hw hr hk
  next hrow => rw [State.lineDown_above col hrow, State.readCell_setCursor]

/-- The glyph of `c`, if it has one, written at the cursor: what `State.glyphCell` says cell by cell (R315). -/
def State.putGlyph (s : State) (c : Byte) : State :=
  if isGlyph c then s.writeCell s.bios.curRow.toNat s.bios.curCol.toNat (c, s.bios.attr) else s

@[simp] theorem State.putGlyph_params (s : State) (c : Byte) : (s.putGlyph c).params = s.params := by
  unfold State.putGlyph
  split <;> rfl

@[simp] theorem State.putGlyph_bios (s : State) (c : Byte) : (s.putGlyph c).bios = s.bios := by
  unfold State.putGlyph
  split <;> rfl

theorem State.readCell_putGlyph {s : State} (c : Byte) (h : s.bios.curRow.toNat < 25 ∧ s.bios.curCol.toNat < 80)
    (hw : TextWritable s.params) {r k : Nat} (hr : r < 25) (hk : k < 80) :
    (s.putGlyph c).readCell r k = s.glyphCell c r k := by
  unfold State.putGlyph State.glyphCell
  by_cases hc : isGlyph c = true
  · rw [if_pos hc, State.writeCell_eq_fillWindow, s.readCell_fillWindow _ (by omega) (by omega) hw hr hk]
    refine if_congr ?_ rfl rfl
    rw [and_iff_right hc]
    omega
  · rw [if_neg hc, if_neg fun hand => hc hand.1]

/-- The next tab stop of a column on the screen (R315, D44). -/
theorem State.tabStop_toNat {s : State} (h : s.bios.curCol.toNat < 80) :
    s.tabStop.toNat = (s.bios.curCol.toNat / 8 + 1) * 8 := by
  have key : ∀ col : Byte, col.toNat < 80 → ((col + 8) &&& 0xF8).toNat = (col.toNat / 8 + 1) * 8 := by decide
  exact key _ h

theorem teletypeCol_lt (c : Byte) {col : Nat} (h : col < 80) : teletypeCol c col < 80 := by
  unfold teletypeCol
  split_ifs <;> omega

/-- The cursor moved to where it stands. -/
theorem State.setCursor_self (s : State) : s.setCursor s.bios.curRow s.bios.curCol = s := rfl

/-- A control character writes no glyph. -/
theorem State.putGlyph_control (s : State) {c : Byte} (h : isGlyph c = false) : s.putGlyph c = s :=
  if_neg (by rw [h]; exact nofun)

theorem isGlyph_iff {c : Byte} : isGlyph c = true ↔ c ≠ 0x07 ∧ c ≠ 0x08 ∧ c ≠ 0x09 ∧ c ≠ 0x0A ∧ c ≠ 0x0D :=
  decide_eq_true_iff

theorem isGlyph_or_control (c : Byte) :
    isGlyph c = true ∨ c = 0x07 ∨ c = 0x08 ∨ c = 0x09 ∨ c = 0x0A ∨ c = 0x0D := by
  rw [isGlyph_iff]
  tauto

/-- Teletype of a glyph (R315): it is written, and in the last column a new line follows. -/
theorem State.putChar_glyph (s : State) {c : Byte} (h : isGlyph c = true) :
    s.putChar c = if s.bios.curCol + 1 = 80 then (s.putGlyph c).lineDown 0
      else (s.putGlyph c).setCursor s.bios.curRow (s.bios.curCol + 1) := by
  obtain ⟨h7, h8, h9, hA, hD⟩ := isGlyph_iff.1 h
  rw [State.putChar, if_neg h7, if_neg h8, if_neg h9, if_neg hA, if_neg hD, State.putGlyph, if_pos h]
  rfl

theorem teletypeDown_glyph {c : Byte} (h : isGlyph c = true) (col : Nat) : teletypeDown c col = true ↔ col = 79 := by
  obtain ⟨-, -, h9, hA, -⟩ := isGlyph_iff.1 h
  rw [teletypeDown, decide_eq_true_eq]
  tauto

theorem teletypeCol_glyph {c : Byte} (h : isGlyph c = true) (col : Nat) :
    teletypeCol c col = if col = 79 then 0 else col + 1 := by
  obtain ⟨-, h8, h9, -, hD⟩ := isGlyph_iff.1 h
  rw [teletypeCol, if_neg h8, if_neg hD, if_neg h9, if_pos h]

/-- Backspace moves left and stops in column 0 (R315, D44). -/
theorem State.putChar_backspace (s : State) :
    s.putChar 0x08 = s.setCursor s.bios.curRow (BitVec.ofNat 8 (s.bios.curCol.toNat - 1)) := by
  have hcol : BitVec.ofNat 8 (s.bios.curCol.toNat - 1) =
      if s.bios.curCol = 0 then s.bios.curCol else s.bios.curCol - 1 := by split <;> bv_omega
  rw [hcol, apply_ite (s.setCursor s.bios.curRow), State.setCursor_self]
  rfl

/-- What teletype output does: it writes the glyph, then goes down a row or moves within its row (R315, D44). -/
theorem State.putChar_eq {s : State} (c : Byte) (h : s.bios.curCol.toNat < 80) :
    s.putChar c =
      if teletypeDown c s.bios.curCol.toNat then
        (s.putGlyph c).lineDown (BitVec.ofNat 8 (teletypeCol c s.bios.curCol.toNat))
      else (s.putGlyph c).setCursor s.bios.curRow (BitVec.ofNat 8 (teletypeCol c s.bios.curCol.toNat)) := by
  obtain hglyph | rfl | rfl | rfl | rfl | rfl := isGlyph_or_control c
  · have hlast : s.bios.curCol + 1 = 80 ↔ s.bios.curCol.toNat = 79 := by bv_omega
    rw [s.putChar_glyph hglyph, teletypeCol_glyph hglyph]
    simp only [hlast, teletypeDown_glyph hglyph]
    by_cases hcol : s.bios.curCol.toNat = 79
    · rw [if_pos hcol, if_pos hcol, if_pos hcol]
      rfl
    · rw [if_neg hcol, if_neg hcol, if_neg hcol, BitVec.ofNat_add, BitVec.ofNat_toNat, BitVec.setWidth_eq]
      rfl
  all_goals rw [State.putGlyph_control s (by decide)]
  -- The controls: bell, backspace, tab, line feed and carriage return.
  · simp [State.putChar, teletypeDown, teletypeCol, isGlyph, State.setCursor_self]
  · rw [State.putChar_backspace]
    simp [teletypeDown, teletypeCol, isGlyph]
  · have hstop := State.tabStop_toNat h
    have hofNat : BitVec.ofNat 8 ((s.bios.curCol.toNat / 8 + 1) * 8) = s.tabStop := by
      rw [← hstop, BitVec.ofNat_toNat, BitVec.setWidth_eq]
    by_cases hedge : 80 ≤ (s.bios.curCol.toNat / 8 + 1) * 8
    · simp [State.putChar, teletypeDown, teletypeCol, isGlyph, hstop, hedge, State.newLine]
    · simp [State.putChar, teletypeDown, teletypeCol, isGlyph, hstop, hedge, hofNat]
  · simp [State.putChar, teletypeDown, teletypeCol, isGlyph]
  · simp [State.putChar, teletypeDown, teletypeCol, isGlyph]

/-- The row of the cursor after teletype output (R315). -/
theorem State.putChar_curRow {s : State} (c : Byte) (h : s.bios.curRow.toNat < 25 ∧ s.bios.curCol.toNat < 80) :
    (s.putChar c).bios.curRow.toNat = teletypeRow c s.bios.curRow.toNat s.bios.curCol.toNat := by
  rw [State.putChar_eq c h.2, teletypeRow]
  split
  · rw [State.lineDown_curRow _ (by rw [State.putGlyph_bios]; exact h.1), State.putGlyph_bios]
  · rfl

/-- The column of the cursor after teletype output (R315). -/
theorem State.putChar_curCol {s : State} (c : Byte) (h : s.bios.curCol.toNat < 80) :
    (s.putChar c).bios.curCol.toNat = teletypeCol c s.bios.curCol.toNat := by
  have hcol : (s.putChar c).bios.curCol = BitVec.ofNat 8 (teletypeCol c s.bios.curCol.toNat) := by
    rw [State.putChar_eq c h]
    split
    · exact State.lineDown_curCol _ _
    · rfl
  rw [hcol, BitVec.toNat_ofNat]
  exact Nat.mod_eq_of_lt ((teletypeCol_lt c h).trans (by decide))

/-- Every cell of the screen after teletype output (R315). -/
theorem State.readCell_putChar {s : State} (c : Byte) (h : s.bios.curRow.toNat < 25 ∧ s.bios.curCol.toNat < 80)
    (hw : TextWritable s.params) {r k : Nat} (hr : r < 25) (hk : k < 80) :
    (s.putChar c).readCell r k = s.teletypeCell c r k := by
  have hglyph : ∀ r' < 25, (s.putGlyph c).readCell r' k = s.glyphCell c r' k := fun r' hr' =>
    State.readCell_putGlyph c h hw hr' hk
  rw [State.putChar_eq c h.2, State.teletypeCell, ite_and]
  split
  next hdown =>
    rw [State.readCell_lineDown _ (by rw [State.putGlyph_params]; exact hw) hr hk, State.putGlyph_bios, hglyph r hr]
    split_ifs with hbottom hlast
    · exact hglyph (r + 1) (by omega)
    · rfl
    · rfl
  next hstay => rw [State.readCell_setCursor, hglyph r hr]

/-- Settles O55: `putChar` answers for the service, and the tables of Safety.lean say where it moves the cursor and
what it leaves in every cell. -/
theorem teletypeResults : Obligations.TeletypeResults := by
  intro s hrow hcol hw
  simp only [← reg8_ah, ← reg8_al, exec_int_video]
  intro hah
  have hcur : s.bios.curRow.toNat < 25 ∧ s.bios.curCol.toNat < 80 := ⟨hrow, hcol⟩
  have hchange := s.putChar_change (s.reg8 .al) hcur
  refine ⟨(s.putChar (s.reg8 .al)).mem, _, _, ?_, State.putChar_curRow _ hcur, State.putChar_curCol _ hcol,
    fun r k hr hk => ?_⟩
  · rw [serviceVideo_teletype hah, State.teletype_eq _ hcur]
    exact congrArg _ hchange.rest
  · refine (State.readCell_congr ?_ ?_ r k).trans (State.readCell_putChar _ hcur hw hr hk)
    · exact hchange.params.symm
    · rfl

/-! ### DOS string output (R332) -/

theorem serviceDos_string {s : State} (h : s.reg8 .ah = 0x09) : serviceDos s = dosPrint dosPrintFuel s.dx s := by
  rw [serviceDos, h]; rfl

theorem dosPrint_dollar (n : Nat) {off : Word} {s : State} (h : s.memRead8 (lin s.ds off) = 0x24) :
    dosPrint (n + 1) off s = .next (s.drawReg8 .al) := if_pos h

/-- A byte that is not '$' is printed, with the cursor on the screen, and the loop goes on after it (R332). -/
theorem dosPrint_succ (n : Nat) {off : Word} {s : State} (h : s.bios.curRow.toNat < 25 ∧ s.bios.curCol.toNat < 80)
    (h24 : s.memRead8 (lin s.ds off) ≠ 0x24) :
    dosPrint (n + 1) off s = dosPrint n (off + 1) (s.putChar (s.memRead8 (lin s.ds off))) := by
  rw [dosPrint, if_neg h24, State.teletype_eq _ h]

theorem TeletypeChange.ds {s t : State} (h : TeletypeChange s t) : t.ds = s.ds := by rw [h.rest]

/-- Teletype output of a list of bytes, with the cursor on the screen. -/
theorem State.foldl_putChar_change (bytes : List Byte) : ∀ {s : State},
    s.bios.curRow.toNat < 25 ∧ s.bios.curCol.toNat < 80 → TeletypeChange s (bytes.foldl State.putChar s) := by
  induction bytes with
  | nil => exact fun h => ⟨rfl, h, fun hm => hm, fun _ _ => rfl⟩
  | cons b bytes ih => exact fun {s} h => (s.putChar_change b h).trans (ih (s.putChar_change b h).cursor)

theorem add_one_add_ofNat (off : Word) (k : Nat) : off + 1 + BitVec.ofNat 16 k = off + BitVec.ofNat 16 (k + 1) :=
  ofNat_add_ofNat_succ off k

/-- The bytes at DS:`off` are `bytes` and then the first '$', and all of them lie outside the text buffer. -/
structure State.StringAt (s : State) (off : Word) (bytes : List Byte) : Prop where
  noDollar : 0x24 ∉ bytes
  text : ∀ (k : Nat) (h : k < bytes.length), s.memRead8 (lin s.ds (off + BitVec.ofNat 16 k)) = bytes[k]
  dollar : s.memRead8 (lin s.ds (off + BitVec.ofNat 16 bytes.length)) = 0x24
  outside : ∀ k : Nat, k ≤ bytes.length → inTextBuffer s.params (lin s.ds (off + BitVec.ofNat 16 k)) = false

theorem State.StringAt.of_nil {s : State} {off : Word} (h : s.StringAt off []) : s.memRead8 (lin s.ds off) = 0x24 := by
  simpa using h.dollar

theorem State.StringAt.head {s : State} {off : Word} {b : Byte} {bytes : List Byte} (h : s.StringAt off (b :: bytes)) :
    s.memRead8 (lin s.ds off) = b := by
  simpa using h.text 0 (Nat.succ_pos _)

theorem State.StringAt.head_ne_dollar {s : State} {off : Word} {b : Byte} {bytes : List Byte}
    (h : s.StringAt off (b :: bytes)) : b ≠ 0x24 := fun hb => h.noDollar (hb ▸ List.mem_cons_self)

theorem State.StringAt.tail {s : State} {off : Word} {b : Byte} {bytes : List Byte} (h : s.StringAt off (b :: bytes)) :
    s.StringAt (off + 1) bytes where
  noDollar hmem := h.noDollar (List.mem_cons_of_mem b hmem)
  text k hk := by
    rw [add_one_add_ofNat]
    exact h.text (k + 1) (Nat.succ_lt_succ hk)
  dollar := by
    rw [add_one_add_ofNat]
    exact h.dollar
  outside k hk := by
    rw [add_one_add_ofNat]
    exact h.outside (k + 1) (Nat.succ_le_succ hk)

/-- Teletype output leaves a string outside the text buffer. -/
theorem State.StringAt.of_change {s t : State} {off : Word} {bytes : List Byte} (h : s.StringAt off bytes)
    (hc : TeletypeChange s t) : t.StringAt off bytes where
  noDollar := h.noDollar
  text k hk := by rw [hc.ds, hc.frame _ (h.outside k hk.le), h.text k hk]
  dollar := by rw [hc.ds, hc.frame _ (h.outside _ le_rfl), h.dollar]
  outside k hk := by rw [hc.ds, hc.params, h.outside k hk]

/-- The loop on a string that ends: its bytes are printed, and AL is drawn (R332). -/
theorem dosPrint_string (bytes : List Byte) : ∀ (n : Nat) (off : Word) {s : State}, bytes.length ≤ n →
    s.bios.curRow.toNat < 25 ∧ s.bios.curCol.toNat < 80 → s.StringAt off bytes →
    dosPrint (n + 1) off s = .next ((bytes.foldl State.putChar s).drawReg8 .al) := by
  induction bytes with
  | nil => exact fun n off s _ _ hs => dosPrint_dollar n hs.of_nil
  | cons b bytes ih =>
    intro n off s hn hcur hs
    obtain ⟨n, rfl⟩ : ∃ m, n = m + 1 := Nat.exists_eq_add_of_le' (Nat.le_of_add_left_le hn)
    have hc := s.putChar_change b hcur
    rw [dosPrint_succ _ hcur (by rw [hs.head]; exact hs.head_ne_dollar), hs.head, List.foldl_cons]
    exact ih n (off + 1) (Nat.le_of_succ_le_succ hn) hc.cursor (hs.tail.of_change hc)

/-- The loop where no byte of DS is '$': it runs out of rounds and hangs (R332, U28; log entry 19). -/
theorem dosPrint_endless (n : Nat) : ∀ (off : Word) {s : State},
    s.bios.curRow.toNat < 25 ∧ s.bios.curCol.toNat < 80 →
    (∀ o : Word, s.memRead8 (lin s.ds o) ≠ 0x24 ∧ inTextBuffer s.params (lin s.ds o) = false) →
    ∃ t : State, dosPrint n off s = .next t ∧ t.hung = true := by
  induction n with
  | zero => exact fun off s _ _ => ⟨s.hang, rfl, rfl⟩
  | succ n ih =>
    intro off s hcur hs
    have hc := s.putChar_change (s.memRead8 (lin s.ds off)) hcur
    rw [dosPrint_succ n hcur (hs off).1]
    refine ih (off + 1) hc.cursor fun o => ?_
    obtain ⟨h24, hout⟩ := hs o
    rw [hc.ds, hc.params, hc.frame _ hout]
    exact ⟨h24, hout⟩

/-- The loop has a round for every string that fits in a segment (log entry 19). -/
theorem segment_le_dosPrintFuel : 65536 ≤ dosPrintFuel :=
  calc 65536 = 2 ^ 16 := rfl
    _ ≤ 2 ^ 250 := Nat.pow_le_pow_right two_pos (by decide)
    _ ≤ (2 ^ 250) ^ 132 := Nat.le_self_pow (by decide) _

/-- Settles O57: the loop on a string that ends, whose output leaves AX and the draw counter, and the loop that
never meets a '$'. -/
theorem dosStringServiceResults : Obligations.DosStringServiceResults := by
  intro s hrow hcol
  have hcur : s.bios.curRow.toNat < 25 ∧ s.bios.curCol.toNat < 80 := ⟨hrow, hcol⟩
  simp only [← reg8_ah, exec_int_dos]
  intro hah
  rw [serviceDos_string hah]
  refine ⟨fun bytes hlen hno htext hend hout => ⟨Config.freeByte s.drawCount, ?_⟩, dosPrint_endless _ _ hcur⟩
  obtain ⟨n, hn⟩ := Nat.exists_eq_add_of_le' ((by decide : 1 ≤ 65536).trans segment_le_dosPrintFuel)
  have hfuel : bytes.length ≤ n := by have := segment_le_dosPrintFuel; omega
  have hc := State.foldl_putChar_change bytes hcur
  rw [hn, dosPrint_string bytes n s.dx hfuel hcur ⟨hno, htext, hend, hout⟩, State.drawReg8_al, hc.ax, hc.drawCount]

/-! ### The disk services (R320 to R324) -/

theorem exec_int_disk (s : State) : exec (.int 0x13) s = serviceDisk s := rfl

theorem serviceDisk_reset {s : State} (h : s.reg8 .ah = 0x00) : serviceDisk s = .next s.diskSuccess := by
  rw [serviceDisk, h]; rfl

/-- Read and write answer alike: nothing is transferred (R322, R323). -/
theorem serviceDisk_transfer {s : State} (h : s.reg8 .ah = 0x02 ∨ s.reg8 .ah = 0x03) :
    serviceDisk s = .next (s.diskSuccess.drawReg8 .al) := by
  rw [serviceDisk]
  obtain h | h := h <;> rw [h] <;> rfl

theorem serviceDisk_parameters {s : State} (h : s.reg8 .ah = 0x08) : serviceDisk s = diskParameters s := by
  rw [serviceDisk, h]; rfl

/-- Success clears AH and CF and nothing else (R320). -/
theorem State.diskSuccess_eq (s : State) :
    s.diskSuccess = { s with ax := s.ax &&& 0x00FF, flags := putFlag s.flags .carry false } := by
  have hax : withHigh s.ax 0x00 = s.ax &&& 0x00FF := BitVec.or_zero
  rw [← hax]
  rfl

/-- Drawing AL when AH is zero gives AX a zero-extended byte. -/
theorem low_mask_high_mask_or (w : Word) (v : Byte) : (w &&& 0x00FF &&& 0xFF00) ||| v.setWidth 16 = v.setWidth 16 := by
  rw [BitVec.and_assoc]
  exact (congrArg (· ||| v.setWidth 16) BitVec.and_zero).trans BitVec.zero_or

/-- Settles O52: the report of success, with a draw of AL after a transfer and DISK_GEOMETRY for the parameters. -/
theorem diskServiceResults : Obligations.DiskServiceResults := by
  intro s
  refine ⟨putFlag s.flags .carry false, oneBit_putFlag s.flags .carry false, ?_⟩
  simp only [← reg8_ah, exec_int_disk]
  refine ⟨fun hah => ?reset, fun hah => ⟨Config.freeByte s.drawCount, ?transfer⟩, fun hah => ?parameters⟩
  case reset => rw [serviceDisk_reset hah, State.diskSuccess_eq]
  case transfer =>
    rw [serviceDisk_transfer hah, State.diskSuccess_eq, State.drawReg8_al]
    simp only [low_mask_high_mask_or]
  case parameters => rw [serviceDisk_parameters hah, diskParameters, State.diskSuccess_eq]

/-! ### The cursor, page and cell services (R305 to R308, R311 to R313) -/

/-- Set cursor to a place on the screen (R306). -/
theorem videoSetCursor_eq {s : State} (hrow : (s.reg8 .dh).toNat < 25) (hcol : (s.reg8 .dl).toNat < 80) :
    videoSetCursor s = .next (s.setCursor (s.reg8 .dh) (s.reg8 .dl)) := if_pos ⟨hrow, hcol⟩

/-- Read cell with the cursor on the screen (R311). -/
theorem videoReadCell_eq {s : State} (h : s.cursorOk = true) :
    videoReadCell s = .next { s with ax := joinBytes s.cursorCell.2 s.cursorCell.1 } := if_pos h

/-- Write cell with the cursor on the screen and CX = 1 (R312). -/
theorem videoWriteCell_eq {s : State} (h : s.cursorOk = true) (hcx : s.cx = 1) :
    videoWriteCell s =
      .next (s.writeCell s.bios.curRow.toNat s.bios.curCol.toNat (s.reg8 .al, s.reg8 .bl)) := by
  rw [videoWriteCell, State.writeAtCursor, if_neg (not_not.2 hcx), if_pos h]

/-- Write character with the cursor on the screen and CX = 1 (R313). -/
theorem videoWriteChar_eq {s : State} (h : s.cursorOk = true) (hcx : s.cx = 1) :
    videoWriteChar s = .next (s.memWrite8 (s.cellAddr s.bios.curRow.toNat s.bios.curCol.toNat) (s.reg8 .al)) := by
  rw [videoWriteChar, if_neg (not_not.2 hcx), if_pos h]

/-- Settles O53: each service's equation, a cell write being two byte stores one after the other (log entry 20). -/
theorem videoCursorAndCellResults : Obligations.VideoCursorAndCellResults := by
  intro s
  simp only [← reg8_ah, ← reg8_al, ← reg8_bl, ← reg8_ch, ← reg8_cl, ← reg8_dh, ← reg8_dl, exec_int_video]
  refine ⟨serviceVideo_setShape, fun hah hrow hcol => ?setCursor, serviceVideo_getCursor, serviceVideo_selectPage,
    fun hrow hcol => ?cells⟩
  case setCursor => rw [serviceVideo_setCursor hah, videoSetCursor_eq hrow hcol]; rfl
  case cells =>
    have hcur := s.cursorOk_iff.2 ⟨hrow, hcol⟩
    refine ⟨fun hah => ?readCell, fun hcx hah => ?writeCell, fun hcx hah => ?writeChar⟩
    case readCell => rw [serviceVideo_readCell hah, videoReadCell_eq hcur]; rfl
    case writeCell =>
      rw [serviceVideo_writeCell hah, videoWriteCell_eq hcur hcx]
      exact ⟨_, _, rfl, byteStored_write8 _ _ _ _, byteStored_write8 _ _ _ _⟩
    case writeChar =>
      rw [serviceVideo_writeChar hah, videoWriteChar_eq hcur hcx]
      exact ⟨_, rfl, byteStored_write8 _ _ _ _⟩

end Sys2Proof.Machine
